-- ==== Sys2Proof/Word.lean ====
section
/-! DEFINITION. The word types of the block and the plainest facts about them (00_scope.md R5, R6). -/

namespace Sys2Proof

/-- One byte: a mode byte, a role byte, a direction code, a byte of the output bitmap. -/
abbrev Byte := BitVec 8

/-- The u32 of `now_ms`, `time_last`, `debounce_ms`, `hold_release_ms` and `press_count` (R5 `TW`, `CW`). -/
abbrev U32 := BitVec 32

/-- A hat mask, 4 bits (R5 `MW`). -/
abbrev Mask := BitVec 4

/-- A hat number 0..3; the document's POV index is this plus one (R6, R60). -/
abbrev Hat := Fin 4

end Sys2Proof
end

