-- ==== Sys2Proof/Config.lean ====
section
/-! DEFINITION. The parameters of the block (00_scope.md R5), its configuration (10_state.md R23 to R26) and the one
free value of the model. -/

namespace Sys2Proof

/-- R5 `press_count_overflow`: what `press_count` does at 0xFFFFFFFF. -/
inductive Overflow where
  | wrap
  | saturate
deriving DecidableEq, Repr

/-- R5: the implementation parameters. `N` is the slot maximum, `P` the number of physical pins, `srMax` and `axMax`
the upper bounds of the two counts. HATS = 4 and the widths are fixed by the types. -/
structure Params where
  N : Nat
  P : Nat
  srMax : Nat
  axMax : Nat
  overflow : Overflow
deriving DecidableEq, Repr

/-- R5 `BM_BYTES` = ceil(N / 8). -/
def Params.bmBytes (p : Params) : Nat := (p.N + 7) / 8

/-- R23 to R26: everything the configuration collaborator loads before a run. -/
structure Configuration where
  mode : List Byte
  debounceMs : U32
  holdReleaseMs : U32
  pinRole : List Byte
  srCount : Nat
  axisCount : Nat
deriving DecidableEq, Repr

/-- One input line of a cycle (46_scan_orchestrator.md R160), named so that a line that was not delivered has a value
of its own. -/
inductive InputLine where
  | matrix (c r : Nat)
  | shiftReg (b : Nat)
  | axis (a : Nat)
  | pin (p : Nat)
deriving DecidableEq, Repr

/-- FREE VALUE (93_implementation_defined.md U7, log 5): the level the cycle of that number sees on a line its
collaborator did not deliver. Nothing constrains it. -/
opaque Config.undelivered : Nat → InputLine → Bool

/-- PRESUMED (log 2): the parameters of `State.reset`. N = 128 is the spec's non-normative hint (R5). No statement
rests on them: each quantifies over the parameters. -/
def Params.atReset : Params := { N := 128, P := 30, srMax := 128, axMax := 128, overflow := .wrap }

/-- DESIGN CHOICE (log 3): the configuration of `State.reset`, all zero: every pin `UNUSED`, every mode byte 0x00. The
spec gives configuration no reset value (R222). -/
def Configuration.atReset : Configuration :=
  { mode := List.replicate 128 0
    debounceMs := 0
    holdReleaseMs := 0
    pinRole := List.replicate 30 0
    srCount := 0
    axisCount := 0 }

end Sys2Proof
end

