-- ==== Sys2Proof/Syntax.lean ====
section
/-! DEFINITION. The operations of spec/opcode_table.json as syntax: the mode bytes (format MODE8), the pin-role bytes
(ROLE8), the sequencer steps (SEQSTEP) and the aggregator's function (FUNC). -/

namespace Sys2Proof

/-- The four formats of the table (30_encoding.md, opening paragraph). Which one a word is read in is fixed by where it
stands: the mode table, the pin role table, the sequencer, or nowhere (RESOLVE has no word). -/
inductive Format where
  | mode8
  | role8
  | seqStep
  | func
deriving DecidableEq, Repr

/-- One constructor per mnemonic of the table. The rows of one reserved mnemonic differ only in the bytes they cover,
so the byte is the constructor's operand (log 24). -/
inductive Instr where
  -- MODE8, layout S (R60)
  | normal
  | inverted
  | toggle
  | toggleSwitch
  | toggleSwitchOn
  | toggleSwitchOff
  -- MODE8, layout P (R60, R61)
  | povUp (hat : Hat)
  | povRight (hat : Hat)
  | povDown (hat : Hat)
  | povLeft (hat : Hat)
  -- MODE8, every other byte (R62)
  | modeReserved (byte : Byte)
  -- ROLE8 (R66, R67)
  | unused
  | column
  | row
  | btnGnd
  | btnVcc
  | roleReserved (byte : Byte)
  -- SEQSTEP (R68)
  | scanMatrix
  | appendShiftreg
  | appendAxis
  | appendDirect
  | mergeEncoder
  | advanceAll
  | resolvePov
  | rebuildBitmap
  -- FUNC (R150)
  | resolve
deriving DecidableEq, Repr

/-- The mnemonics of the table as names. -/
inductive Mnemonic where
  | NORMAL | INVERTED | TOGGLE | TOGGLE_SWITCH | TOGGLE_SWITCH_ON | TOGGLE_SWITCH_OFF
  | POV_UP | POV_RIGHT | POV_DOWN | POV_LEFT | MODE_RESERVED
  | UNUSED | COLUMN | ROW | BTN_GND | BTN_VCC | ROLE_RESERVED
  | SCAN_MATRIX | APPEND_SHIFTREG | APPEND_AXIS | APPEND_DIRECT | MERGE_ENCODER
  | ADVANCE_ALL | RESOLVE_POV | REBUILD_BITMAP
  | RESOLVE
deriving DecidableEq, Repr

/-- The mnemonic of an instruction. -/
def Instr.mnemonic : Instr → Mnemonic
  | .normal => .NORMAL
  | .inverted => .INVERTED
  | .toggle => .TOGGLE
  | .toggleSwitch => .TOGGLE_SWITCH
  | .toggleSwitchOn => .TOGGLE_SWITCH_ON
  | .toggleSwitchOff => .TOGGLE_SWITCH_OFF
  | .povUp _ => .POV_UP
  | .povRight _ => .POV_RIGHT
  | .povDown _ => .POV_DOWN
  | .povLeft _ => .POV_LEFT
  | .modeReserved _ => .MODE_RESERVED
  | .unused => .UNUSED
  | .column => .COLUMN
  | .row => .ROW
  | .btnGnd => .BTN_GND
  | .btnVcc => .BTN_VCC
  | .roleReserved _ => .ROLE_RESERVED
  | .scanMatrix => .SCAN_MATRIX
  | .appendShiftreg => .APPEND_SHIFTREG
  | .appendAxis => .APPEND_AXIS
  | .appendDirect => .APPEND_DIRECT
  | .mergeEncoder => .MERGE_ENCODER
  | .advanceAll => .ADVANCE_ALL
  | .resolvePov => .RESOLVE_POV
  | .rebuildBitmap => .REBUILD_BITMAP
  | .resolve => .RESOLVE

/-- The format an instruction is encoded in. -/
def Instr.format : Instr → Format
  | .normal => .mode8
  | .inverted => .mode8
  | .toggle => .mode8
  | .toggleSwitch => .mode8
  | .toggleSwitchOn => .mode8
  | .toggleSwitchOff => .mode8
  | .povUp _ => .mode8
  | .povRight _ => .mode8
  | .povDown _ => .mode8
  | .povLeft _ => .mode8
  | .modeReserved _ => .mode8
  | .unused => .role8
  | .column => .role8
  | .row => .role8
  | .btnGnd => .role8
  | .btnVcc => .role8
  | .roleReserved _ => .role8
  | .scanMatrix => .seqStep
  | .appendShiftreg => .seqStep
  | .appendAxis => .seqStep
  | .appendDirect => .seqStep
  | .mergeEncoder => .seqStep
  | .advanceAll => .seqStep
  | .resolvePov => .seqStep
  | .rebuildBitmap => .seqStep
  | .resolve => .func

end Sys2Proof
end

