-- ==== Sys2Proof/WellFormed.lean ====
section
/-! DEFINITION. Well-formedness: which instruction terms the encodings admit, and which configurations fit the
parameters. -/

namespace Sys2Proof

/-- R62: the mode bytes without a defined mode: 0x06 to 0x0F and 0x20 to 0xFF. -/
def isReservedMode (m : Byte) : Bool :=
  (0x06 ≤ m.toNat && m.toNat ≤ 0x0F) || 0x20 ≤ m.toNat

/-- R66: the role bytes without a defined role: 0x05 to 0xFF. -/
def isReservedRole (m : Byte) : Bool := 0x05 ≤ m.toNat

/-- A reserved instruction carries a reserved byte; every other field is bounded by its type. -/
def Instr.wf : Instr → Bool
  | .normal => true
  | .inverted => true
  | .toggle => true
  | .toggleSwitch => true
  | .toggleSwitchOn => true
  | .toggleSwitchOff => true
  | .povUp _ => true
  | .povRight _ => true
  | .povDown _ => true
  | .povLeft _ => true
  | .modeReserved m => isReservedMode m
  | .unused => true
  | .column => true
  | .row => true
  | .btnGnd => true
  | .btnVcc => true
  | .roleReserved m => isReservedRole m
  | .scanMatrix => true
  | .appendShiftreg => true
  | .appendAxis => true
  | .appendDirect => true
  | .mergeEncoder => true
  | .advanceAll => true
  | .resolvePov => true
  | .rebuildBitmap => true
  | .resolve => true

/-- R5: N ≥ 1. -/
def Params.wf (p : Params) : Bool := 1 ≤ p.N

/-- R222: every configuration item is loaded for every index, and R26 bounds the two counts. -/
def Configuration.wf (c : Configuration) (p : Params) : Bool :=
  c.mode.length == p.N && c.pinRole.length == p.P && c.srCount ≤ p.srMax && c.axisCount ≤ p.axMax

end Sys2Proof
end

