-- ==== Sys2Proof/Decode.lean ====
section
/-! DEFINITION. Decoding and encoding (30_encoding.md). Decoding is total on any bytes: the mode table and the role
table give every byte a meaning (R63, R66, R67); a sequencer ordinal outside 1..8 is rejected by name. -/

namespace Sys2Proof

/-- Why a word is no instruction. -/
inductive DecodeError where
  /-- No byte stands where a word is read. -/
  | truncated
  /-- R68: the sequencer has the ordinals 1 to 8 only. -/
  | noSuchStep (ordinal : BitVec 4)
  /-- A SEQSTEP word is 4 bits; the byte that carries it has its upper bits zero. -/
  | strayOrdinalBits (byte : Byte)
deriving DecidableEq, Repr

/-- Layout S of R60, by `m[3:0]`. -/
def decodeSimpleMode (m : Byte) : Instr :=
  match (m.extractLsb' 0 4).toNat with
  | 0 => .normal
  | 1 => .inverted
  | 2 => .toggle
  | 3 => .toggleSwitch
  | 4 => .toggleSwitchOn
  | 5 => .toggleSwitchOff
  | _ => .modeReserved m

/-- Layout P of R60 and R61: `m[3:2]` is the hat, `m[1:0]` the direction. -/
def decodePovMode (m : Byte) : Instr :=
  let hat : Hat := (m.extractLsb' 2 2).toFin
  match (m.extractLsb' 0 2).toNat with
  | 0 => .povUp hat
  | 1 => .povRight hat
  | 2 => .povDown hat
  | _ => .povLeft hat

/-- R63: decoding a mode byte, total. The layout is selected by `m[7:4]`. -/
def decodeMode (m : Byte) : Instr :=
  match (m.extractLsb' 4 4).toNat with
  | 0 => decodeSimpleMode m
  | 1 => decodePovMode m
  | _ => .modeReserved m

/-- R66, R67: decoding a role byte, total. -/
def decodeRole (m : Byte) : Instr :=
  match m.toNat with
  | 0 => .unused
  | 1 => .column
  | 2 => .row
  | 3 => .btnGnd
  | 4 => .btnVcc
  | _ => .roleReserved m

/-- R68: the step an ordinal stands for. -/
def decodeSeqStep (w : BitVec 4) : Except DecodeError Instr :=
  match w.toNat with
  | 1 => .ok .scanMatrix
  | 2 => .ok .appendShiftreg
  | 3 => .ok .appendAxis
  | 4 => .ok .appendDirect
  | 5 => .ok .mergeEncoder
  | 6 => .ok .advanceAll
  | 7 => .ok .resolvePov
  | 8 => .ok .rebuildBitmap
  | _ => .error (.noSuchStep w)

/-- The decoder: one instruction of format `f` from the front of `bytes`, and the bytes after it. RESOLVE has no word
of its own (R150), so in format FUNC nothing is read. -/
def decode (f : Format) (bytes : List Byte) : Except DecodeError (Instr × List Byte) :=
  match f, bytes with
  | .mode8, [] => .error .truncated
  | .mode8, b :: rest => .ok (decodeMode b, rest)
  | .role8, [] => .error .truncated
  | .role8, b :: rest => .ok (decodeRole b, rest)
  | .seqStep, [] => .error .truncated
  | .seqStep, b :: rest =>
    if b.extractLsb' 4 4 = 0 then
      match decodeSeqStep (b.extractLsb' 0 4) with
      | .ok i => .ok (i, rest)
      | .error e => .error e
    else .error (.strayOrdinalBits b)
  | .func, bytes => .ok (.resolve, bytes)

/-- R60: the byte of a POV mode, `0x10 | (h << 2) | dir`. -/
def povByte (hat : Hat) (dir : Nat) : Byte :=
  0x10 ||| (BitVec.ofNat 8 hat.val <<< 2) ||| BitVec.ofNat 8 dir

/-- The bytes of an instruction, from the tables of R60, R66 and R68. -/
def encode : Instr → List Byte
  | .normal => [0x00]
  | .inverted => [0x01]
  | .toggle => [0x02]
  | .toggleSwitch => [0x03]
  | .toggleSwitchOn => [0x04]
  | .toggleSwitchOff => [0x05]
  | .povUp h => [povByte h 0]
  | .povRight h => [povByte h 1]
  | .povDown h => [povByte h 2]
  | .povLeft h => [povByte h 3]
  | .modeReserved m => [m]
  | .unused => [0x00]
  | .column => [0x01]
  | .row => [0x02]
  | .btnGnd => [0x03]
  | .btnVcc => [0x04]
  | .roleReserved m => [m]
  | .scanMatrix => [0x01]
  | .appendShiftreg => [0x02]
  | .appendAxis => [0x03]
  | .appendDirect => [0x04]
  | .mergeEncoder => [0x05]
  | .advanceAll => [0x06]
  | .resolvePov => [0x07]
  | .rebuildBitmap => [0x08]
  | .resolve => []

/-- The format a table word of `nbits` bits is read in (log 14). MODE8 and ROLE8 words are both 8 bits and cover the
same 256 bytes; the step-6 walk's reading, MODE8, is the one taken. A SEQSTEP word is 4 bits, and RESOLVE has none. -/
def formatOfWidth (nbits : Nat) : Option Format :=
  match nbits with
  | 0 => some .func
  | 4 => some .seqStep
  | 8 => some .mode8
  | _ => none

/-- The instruction the decoder reads from a table word whose bits are `w`. -/
def decodeTableWord (nbits w : Nat) : Option Instr :=
  match formatOfWidth nbits with
  | none => none
  | some f =>
    match decode f [BitVec.ofNat 8 w] with
    | .ok (i, _) => some i
    | .error _ => none

/-! The opcode table itself, so that the decoder can be held against it row by row. -/

/-- A row of spec/opcode_table.json: a word `w` belongs to it when `w &&& mask = pattern`. -/
structure TableRow where
  mnemonic : Mnemonic
  format : Format
  pattern : Byte
  mask : Byte
deriving DecidableEq, Repr

/-- The word of a row. -/
def TableRow.covers (r : TableRow) (w : Byte) : Bool := w &&& r.mask == r.pattern

/-- The MODE8 rows. -/
def modeRows : List TableRow :=
  [⟨.NORMAL, .mode8, 0x00, 0xFF⟩, ⟨.INVERTED, .mode8, 0x01, 0xFF⟩, ⟨.TOGGLE, .mode8, 0x02, 0xFF⟩,
   ⟨.TOGGLE_SWITCH, .mode8, 0x03, 0xFF⟩, ⟨.TOGGLE_SWITCH_ON, .mode8, 0x04, 0xFF⟩,
   ⟨.TOGGLE_SWITCH_OFF, .mode8, 0x05, 0xFF⟩] ++
  [⟨.POV_UP, .mode8, 0x10, 0xF3⟩, ⟨.POV_RIGHT, .mode8, 0x11, 0xF3⟩, ⟨.POV_DOWN, .mode8, 0x12, 0xF3⟩,
   ⟨.POV_LEFT, .mode8, 0x13, 0xF3⟩] ++
  [⟨.MODE_RESERVED, .mode8, 0x06, 0xFE⟩, ⟨.MODE_RESERVED, .mode8, 0x08, 0xF8⟩,
   ⟨.MODE_RESERVED, .mode8, 0x20, 0xE0⟩, ⟨.MODE_RESERVED, .mode8, 0x40, 0xC0⟩,
   ⟨.MODE_RESERVED, .mode8, 0x80, 0x80⟩]

/-- The ROLE8 rows. -/
def roleRows : List TableRow :=
  [⟨.UNUSED, .role8, 0x00, 0xFF⟩, ⟨.COLUMN, .role8, 0x01, 0xFF⟩, ⟨.ROW, .role8, 0x02, 0xFF⟩,
   ⟨.BTN_GND, .role8, 0x03, 0xFF⟩, ⟨.BTN_VCC, .role8, 0x04, 0xFF⟩] ++
  [⟨.ROLE_RESERVED, .role8, 0x05, 0xFF⟩, ⟨.ROLE_RESERVED, .role8, 0x06, 0xFE⟩,
   ⟨.ROLE_RESERVED, .role8, 0x08, 0xF8⟩, ⟨.ROLE_RESERVED, .role8, 0x10, 0xF0⟩,
   ⟨.ROLE_RESERVED, .role8, 0x20, 0xE0⟩, ⟨.ROLE_RESERVED, .role8, 0x40, 0xC0⟩,
   ⟨.ROLE_RESERVED, .role8, 0x80, 0x80⟩]

/-- The SEQSTEP rows. -/
def seqRows : List TableRow :=
  [⟨.SCAN_MATRIX, .seqStep, 0x01, 0x0F⟩, ⟨.APPEND_SHIFTREG, .seqStep, 0x02, 0x0F⟩,
   ⟨.APPEND_AXIS, .seqStep, 0x03, 0x0F⟩, ⟨.APPEND_DIRECT, .seqStep, 0x04, 0x0F⟩] ++
  [⟨.MERGE_ENCODER, .seqStep, 0x05, 0x0F⟩, ⟨.ADVANCE_ALL, .seqStep, 0x06, 0x0F⟩,
   ⟨.RESOLVE_POV, .seqStep, 0x07, 0x0F⟩, ⟨.REBUILD_BITMAP, .seqStep, 0x08, 0x0F⟩]

/-- The rows that have a word, of one format (FUNC has none). -/
def rowsOf : Format → List TableRow
  | .mode8 => modeRows
  | .role8 => roleRows
  | .seqStep => seqRows
  | .func => []

end Sys2Proof
end

