-- ==== Sys2Proof/Machine/State.lean ====
section
/-! DEFINITION. The state of the block (10_state.md), as plain data, and its value after reset (R31, R220). -/

namespace Sys2Proof.Machine

/-- A slot record (R10): five 1-bit fields, a 32-bit timestamp and a 32-bit press counter. -/
structure Slot where
  /-- R11: the current sample, before any mode inversion. -/
  pinState : Bool
  /-- R12: the previous sample. -/
  pinPrevState : Bool
  /-- R13: the last committed level, read by the guards. -/
  prevState : Bool
  /-- R14: the debounced output. -/
  currentState : Bool
  /-- R15: a window is open. -/
  pending : Bool
  /-- R16: when the last window was opened. -/
  timeLast : U32
  /-- R17: committed presses. -/
  pressCount : U32
deriving DecidableEq, Repr

/-- R31: a slot record after reset. -/
def Slot.reset : Slot :=
  { pinState := false, pinPrevState := false, prevState := false, currentState := false
    pending := false, timeLast := 0, pressCount := 0 }

/-- One value for each of the four hats (R20, R21). -/
structure Hats (α : Type) where
  h0 : α
  h1 : α
  h2 : α
  h3 : α
deriving DecidableEq, Repr

/-- The byte array of the block, `out_bitmap`, by byte index (R6 `MemRead`, R41): rising indices, no zero byte listed. -/
abbrev Memory := List Host.Cell

/-- The inputs of one scan cycle (46_scan_orchestrator.md R160). A line that a list does not reach was not delivered;
an encoder entry that the list does not reach is absent. -/
structure CycleInput where
  /-- The millisecond clock, one value for the whole cycle (R52). -/
  nowMs : U32
  /-- `M[c][r]`: the level of the r-th row pin while the c-th column pin is driven low. -/
  matrix : List (List Bool)
  /-- `sr[b]`. -/
  sr : List Bool
  /-- `ax[a]`. -/
  ax : List Bool
  /-- `pin[p]`: the level of pin p. -/
  pin : List Bool
  /-- `enc[i]`: absent, or the encoder-derived level of slot i. -/
  enc : List (Option Bool)
deriving DecidableEq, Repr

/-- DESIGN CHOICE (log 9): the input latch before any cycle was accepted. No cycle reads it: accepting one writes it. -/
def CycleInput.none : CycleInput :=
  { nowMs := 0, matrix := [], sr := [], ax := [], pin := [], enc := [] }

/-- Where the sequencer stands (R27 (a), R162): at rest, at one of the eight steps, or at the latch between steps 5
and 6 (R171). The block is `busy` (R30, R194) exactly when it is not at rest. -/
inductive SeqPos where
  | idle
  | scanMatrix
  | appendShiftreg
  | appendAxis
  | appendDirect
  | mergeEncoder
  | latch
  | advanceAll
  | resolvePov
  | rebuildBitmap
deriving DecidableEq, Repr

/-- The whole state. -/
structure State where
  -- parameters and configuration: fixed for the run (R5, R23 to R26, R51)
  params : Params
  cfg : Configuration
  -- architectural state
  /-- `S[0..N-1]` (R10). -/
  slots : List Slot
  /-- `pov_mask[0..3]` (R20). -/
  povMask : Hats Mask
  /-- `pov_code[0..3]` (R21). -/
  povCode : Hats Byte
  /-- `out_bitmap[0..BM_BYTES-1]` (R22). -/
  outBitmap : Memory
  /-- `slot_count` (R28). -/
  slotCount : Nat
  -- sequencing and hidden state (R27, R30, R178)
  /-- The step number and `busy`. -/
  seq : SeqPos
  /-- The slot cursor `k`. -/
  k : Nat
  /-- The staging array `sample[0..N-1]`. -/
  sample : List Bool
  /-- The column pin that is driven low, if one is. -/
  columnDrive : Option Nat
  /-- The copy of `out_bitmap` the reporting layer reads (R46). -/
  shownBitmap : Memory
  /-- The copy of `pov_code` the reporting layer reads (R46). -/
  shownCode : Hats Byte
  -- the walk indices of the loops: the operands R69 leaves implicit (log 7)
  /-- `i` of the step-6 walk. -/
  slotIx : Nat
  /-- `p` of the pin walks. -/
  pinIx : Nat
  /-- `h` of the step-7 walk. -/
  hatIx : Hat
  -- inputs
  /-- The inputs of the cycle in progress (R49). -/
  inp : CycleInput
  /-- The scan requests still to come, oldest first, each with its inputs (R70, R193; log 4). -/
  stimulus : List CycleInput
  /-- How many cycles were accepted; only the free value of an undelivered line reads it (log 6). -/
  cycles : Nat
deriving DecidableEq, Repr

/-- The reasons the machine could stop with a fault: none. R190: the block raises no exception and every operation is
total, so a step has no fault outcome. -/
inductive Fault
deriving DecidableEq, Repr

/-- The reasons the model could refuse an instruction. -/
inductive Refusal where
  /-- An instruction without a meaning in this model, by its mnemonic. Raised by `exec`'s refused arms only, of which
  there are none. Safe: the machine stops. -/
  | notModelled (mnemonic : String)
deriving DecidableEq, Repr

/-- The answer of a meaning. -/
abbrev Answer := Host.Outcome State Fault Refusal

/-- R31, R220: the state after reset of a block with these parameters, this loaded configuration and this schedule of
requests. Reset neither reads nor changes them (R221). DESIGN CHOICE (log 6): the model's counter `cycles` starts at 0
in this first state; a later power-on keeps it (`State.powerOn`). -/
def State.resetOf (p : Params) (c : Configuration) (requests : List CycleInput) : State :=
  { params := p
    cfg := c
    slots := List.replicate p.N Slot.reset
    povMask := ⟨0, 0, 0, 0⟩
    povCode := ⟨0xFF, 0xFF, 0xFF, 0xFF⟩
    outBitmap := []
    slotCount := 0
    seq := .idle
    k := 0
    sample := List.replicate p.N false
    columnDrive := Option.none
    shownBitmap := []
    shownCode := ⟨0xFF, 0xFF, 0xFF, 0xFF⟩
    slotIx := 0
    pinIx := 0
    hatIx := 0
    inp := CycleInput.none
    stimulus := requests
    cycles := 0 }

/-- The machine right after reset, with the parameters and the configuration that log 2 and log 3 name and no request
scheduled. -/
def State.reset : State := State.resetOf Params.atReset Configuration.atReset []

end Sys2Proof.Machine
end

