-- ==== Sys2Proof/Machine/Operands.lean ====
section
/-! DEFINITION. The operands of the operations: table entries read by index, the roles of the pins, and the level of
every input line of a cycle (30_encoding.md R69, 46_scan_orchestrator.md R160). -/

namespace Sys2Proof.Machine

/-- The element of a hat register (R20, R21). -/
def Hats.get {α : Type} (t : Hats α) (h : Hat) : α :=
  match h with
  | 0 => t.h0
  | 1 => t.h1
  | 2 => t.h2
  | 3 => t.h3

/-- Writing one element of a hat register. -/
def Hats.set {α : Type} (t : Hats α) (h : Hat) (v : α) : Hats α :=
  match h with
  | 0 => { t with h0 := v }
  | 1 => { t with h1 := v }
  | 2 => { t with h2 := v }
  | 3 => { t with h3 := v }

/-- R30, R194: a cycle is in progress. -/
def State.busy (s : State) : Bool := s.seq != .idle

/-- The operation the mode byte of slot `i` selects (R63); none where no mode byte is loaded for `i` (log 12). -/
def State.modeAt (s : State) (i : Nat) : Option Instr := (s.cfg.mode[i]?).map decodeMode

/-- The role of pin `p` (R66, R67); a pin without a loaded role byte is unused (log 12). -/
def State.roleAt (s : State) (p : Nat) : Instr :=
  match s.cfg.pinRole[p]? with
  | some b => decodeRole b
  | none => .unused

/-- The pins below `q` with role `r`, in ascending pin order (R163). -/
def State.pinsBelow (s : State) (r : Instr) (q : Nat) : List Nat :=
  (List.range q).filter fun p => s.roleAt p = r

/-- How many pins carry role `r`: `cols`, `rows` of R28. -/
def State.pinCount (s : State) (r : Instr) : Nat := (s.pinsBelow r s.params.P).length

/-- `M[c][r]` of this cycle (R160). -/
def State.matrixLevel (s : State) (c r : Nat) : Bool :=
  match s.inp.matrix[c]? with
  | some levels =>
    match levels[r]? with
    | some v => v
    | none => Config.undelivered s.cycles (.matrix c r)
  | none => Config.undelivered s.cycles (.matrix c r)

/-- `sr[b]` of this cycle (R160). -/
def State.srLevel (s : State) (b : Nat) : Bool :=
  match s.inp.sr[b]? with
  | some v => v
  | none => Config.undelivered s.cycles (.shiftReg b)

/-- `ax[a]` of this cycle (R160). -/
def State.axLevel (s : State) (a : Nat) : Bool :=
  match s.inp.ax[a]? with
  | some v => v
  | none => Config.undelivered s.cycles (.axis a)

/-- `pin[p]` of this cycle (R160). -/
def State.pinLevel (s : State) (p : Nat) : Bool :=
  match s.inp.pin[p]? with
  | some v => v
  | none => Config.undelivered s.cycles (.pin p)

/-- `enc[i]` of this cycle: present with a level, or absent (R160). -/
def State.encAt (s : State) (i : Nat) : Option Bool :=
  match s.inp.enc[i]? with
  | some e => e
  | none => none

/-- R165: the bits of a shift-register byte stream, bit `b` being bit `b mod 8` of byte `b div 8`. The conversion is
the collaborator's; a test bench that has the bytes obtains `sr` here. -/
def srBitsOfBytes (bytes : List Byte) : List Bool :=
  bytes.flatMap fun w => (List.range 8).map fun n => w.getLsbD n

/-- R61: the mask bit of direction `d`, `8 >> d`. -/
def directionBit (d : Nat) : Mask := 8#4 >>> d

end Sys2Proof.Machine
end

