-- ==== Sys2Proof/Machine/Flags.lean ====
section
/-! DEFINITION. The flag-like signals of an advance (10_state.md R29): the comparators (R81), the qualifying conditions
(40_debounce_common.md section 9), the arm of the priority chain (R88), and the counter's addition (R17). -/

namespace Sys2Proof.Machine

/-- R81: `now_ms -% time_last`. -/
def elapsed (now last : U32) : U32 := now - last

/-- R81 `>u`: strict unsigned greater-than. -/
def gtU (a b : U32) : Bool := b.ult a

/-- R81 `deb`. -/
def deb (c : Configuration) (now : U32) (r : Slot) : Bool := gtU (elapsed now r.timeLast) c.debounceMs

/-- R81 `hold`. -/
def hold (c : Configuration) (now : U32) (r : Slot) : Bool := gtU (elapsed now r.timeLast) c.holdReleaseMs

/-- `s != prev_state`. -/
def differs (smp prev : Bool) : Bool := smp != prev

/-- `s > prev_state`: the sample rose (R6). -/
def rose (smp prev : Bool) : Bool := smp && !prev

/-- `s < prev_state`: the sample fell (R6). -/
def fell (smp prev : Bool) : Bool := !smp && prev

/-- The arms of an advance (00_scope.md glossary), and `rests` where no guard holds. -/
inductive Arm where
  | opens
  | commits
  | releases
  | autoReleases
  | aborts
  | rests
deriving DecidableEq, Repr

/-- R88: the one priority chain of every mode: open, commit, the mode's extra arm, abort. `q` is the qualifying
condition, `extraGuard` and `extra` the guard and the name of the extra arm. -/
def chooseArm (pending q expired extraGuard : Bool) (extra : Arm) : Arm :=
  if !pending && q then .opens
  else if pending && q && expired then .commits
  else if extraGuard then extra
  else if pending && expired then .aborts
  else .rests

/-- R87: `committed` is 1 exactly when the commit arm executes. -/
def Arm.committed (a : Arm) : Bool := a == .commits

/-- R17, R89 (c): `press_count + x` for a bit x, by `press_count_overflow`. -/
def addPress (o : Overflow) (n : U32) (x : Bool) : U32 :=
  match x, o with
  | false, _ => n
  | true, .wrap => n + 1
  | true, .saturate => if n = 0xFFFFFFFF#32 then n else n + 1

end Sys2Proof.Machine
end

