-- ==== Sys2Proof/Machine/Ops.lean ====
section
/-! DEFINITION. The named operations over the state: the bitmap memory (20_memory.md), the slot records and the arms
of an advance (R83 to R85), sample assignment (R168), the latch (R171), the sequencer's moves (R162, R194) and the
publication of the outputs (R46). There is no exception entry and no exception return to define: R190, R196, R197. -/

namespace Sys2Proof.Machine

/-! ### The bitmap memory -/

/-- `MemRead(j, 1)` (R6): the byte at index `j`; an unlisted byte is 0x00, its value after reset (R31). -/
def Memory.read : Memory → Nat → Byte
  | [], _ => 0
  | (a, v) :: rest, j => if j = a then v else Memory.read rest j

/-- `MemWrite(j, 1, v)` (R6), keeping the canonical form. -/
def Memory.write : Memory → Nat → Byte → Memory
  | [], j, v => if v = 0 then [] else [(j, v)]
  | (a, w) :: rest, j, v =>
    if j < a then (if v = 0 then (a, w) :: rest else (j, v) :: (a, w) :: rest)
    else if j = a then (if v = 0 then rest else (j, v) :: rest)
    else (a, w) :: Memory.write rest j v

/-- Every listed index is at least `lo`, the indices rise, and no listed byte is zero. -/
def Memory.wfFrom : Nat → Memory → Bool
  | _, [] => true
  | lo, (a, v) :: rest => decide (lo ≤ a) && v != 0 && Memory.wfFrom (a + 1) rest

/-- The canonical form: indices strictly rising, no byte listed that reads as an unlisted one. -/
def Memory.wf (m : Memory) : Bool := Memory.wfFrom 0 m

/-- Every listed index is below `n`: the bitmap has `BM_BYTES` bytes and no others (R22, R40). -/
def Memory.below (m : Memory) (n : Nat) : Bool := m.all fun c => decide (c.1 < n)

/-- Bit `i` of the bitmap: bit `i mod 8` of byte `i div 8` (R41). -/
def Memory.bit (m : Memory) (i : Nat) : Bool := (Memory.read m (i / 8)).getLsbD (i % 8)

/-- Writing bit `i` of the bitmap (R176). -/
def Memory.setBit (m : Memory) (i : Nat) (v : Bool) : Memory :=
  let old := Memory.read m (i / 8)
  let one : Byte := 1#8 <<< (i % 8)
  Memory.write m (i / 8) (if v then old ||| one else old &&& ~~~one)

/-! ### Slot records -/

/-- The slot record at the walk index. -/
def State.slotHere (s : State) : Option Slot := s.slots[s.slotIx]?

/-- Rewriting the slot record at the walk index; nothing where there is none. -/
def State.onSlot (f : Slot → Slot) (s : State) : State := { s with slots := s.slots.modify s.slotIx f }

/-- R83 to R85, R88: what each arm writes. `commit` and `extra` are the mode's own writes; the commit, the extra arm
and the abort all clear `pending`, and `time_last` is written by the open arm only (R16). -/
def applyArm (a : Arm) (now : U32) (commit extra : Slot → Slot) (r : Slot) : Slot :=
  match a with
  | .opens => { r with timeLast := now, pending := true }
  | .commits => { commit r with pending := false }
  | .releases => { extra r with pending := false }
  | .autoReleases => { extra r with pending := false }
  | .aborts => { r with pending := false }
  | .rests => r

/-- R89 (d): setting or clearing one bit of a mask. -/
def maskWrite (m bit : Mask) (v : Bool) : Mask := if v then m ||| bit else m &&& ~~~bit

/-! ### Samples -/

/-- Assigning the next slot to a sample (R27 (b), R168): once `k` reached N the input is dropped. -/
def State.appendSample (v : Bool) (s : State) : State :=
  if s.k < s.params.N then { s with sample := s.sample.set s.k v, k := s.k + 1 } else s

/-- Running `f n` for every `n` of a list, in order. -/
def runOver (f : Nat → State → State) : List Nat → State → State
  | [], s => s
  | n :: rest, s => runOver f rest (f n s)

/-- R171 for one slot: the old sample is saved first. -/
def State.latchSlot (i : Nat) (s : State) : State :=
  match s.sample[i]? with
  | none => s
  | some v =>
    { s with slots := s.slots.modify i fun r => { r with pinPrevState := r.pinState, pinState := v } }

/-- R171: the latch of every assigned slot. -/
def State.latchAll (s : State) : State := runOver State.latchSlot (List.range s.slotCount) s

/-! ### The sequencer -/

/-- The fixed order of R162, with the latch between steps 5 and 6. -/
def SeqPos.after : SeqPos → SeqPos
  | .idle => .idle
  | .scanMatrix => .appendShiftreg
  | .appendShiftreg => .appendAxis
  | .appendAxis => .appendDirect
  | .appendDirect => .mergeEncoder
  | .mergeEncoder => .latch
  | .latch => .advanceAll
  | .advanceAll => .resolvePov
  | .resolvePov => .rebuildBitmap
  | .rebuildBitmap => .idle

/-- R68: the ordinal of the step at a position; none at rest and at the latch, where no step stands. -/
def SeqPos.ordinal : SeqPos → Option (BitVec 4)
  | .idle => none
  | .scanMatrix => some 1
  | .appendShiftreg => some 2
  | .appendAxis => some 3
  | .appendDirect => some 4
  | .mergeEncoder => some 5
  | .latch => none
  | .advanceAll => some 6
  | .resolvePov => some 7
  | .rebuildBitmap => some 8

/-- The position of a step, by its ordinal. -/
def SeqPos.ofOrdinal (w : Nat) : SeqPos :=
  match w with
  | 1 => .scanMatrix
  | 2 => .appendShiftreg
  | 3 => .appendAxis
  | 4 => .appendDirect
  | 5 => .mergeEncoder
  | 6 => .advanceAll
  | 7 => .resolvePov
  | 8 => .rebuildBitmap
  | _ => .idle

/-- The instruction the sequencer reads next: the SEQSTEP word of its position, decoded. -/
def State.fetch (s : State) : Option Instr :=
  match s.seq.ordinal with
  | none => none
  | some w =>
    match decodeSeqStep w with
    | .ok i => some i
    | .error _ => none

/-- R46: the snapshot the reporting layer reads takes the outputs in one step. -/
def State.publish (s : State) : State := { s with shownBitmap := s.outBitmap, shownCode := s.povCode }

/-- Leaving a position: the next one in order, and after step 8 the publication (R46, R162). -/
def State.leave (s : State) : State :=
  match s.seq with
  | .rebuildBitmap => { s.publish with seq := .idle }
  | p => { s with seq := p.after }

/-- R193, R49: accepting a scan request takes its inputs, sets `k` to 0 (R27) and starts at step 1. -/
def State.accept (x : CycleInput) (s : State) : State :=
  { s with inp := x, k := 0, seq := .scanMatrix, cycles := s.cycles + 1 }

/-- R193, R194: a scan request starts a cycle at rest and is ignored while one runs. -/
def State.requestCycle (x : CycleInput) (s : State) : State := if s.busy then s else s.accept x

/-- At rest the only event is a request (R193): the next one of the environment's schedule, if there is one. -/
def State.restStep (s : State) : State :=
  match s.stimulus with
  | [] => s
  | x :: later => { s with stimulus := later }.requestCycle x

/-- Placing a table word where the next step reads it (log 14): a SEQSTEP ordinal as the sequencer's position, a mode
byte as the mode of slot 0 with step 6 about to walk that one slot, RESOLVE as step 7. -/
def State.placeWord (s : State) (nbits w : Nat) : State :=
  match formatOfWidth nbits with
  | some .seqStep => { s with seq := SeqPos.ofOrdinal w }
  | some .mode8 =>
    { s with seq := .advanceAll, slotCount := 1, cfg := { s.cfg with mode := s.cfg.mode.set 0 (BitVec.ofNat 8 w) } }
  | some .func => { s with seq := .resolvePov }
  | some .role8 => s
  | none => s

end Sys2Proof.Machine
end

