-- ==== Sys2Proof/Machine/Aggregator.lean ====
section
/-! DEFINITION. The POV aggregator (45_pov_aggregator.md R150 to R152). -/

namespace Sys2Proof.Machine

/-- R150: the lookup table of all sixteen masks. -/
def resolveMask (m : Mask) : Byte :=
  match m.toNat with
  | 1 => 0x06
  | 2 => 0x04
  | 3 => 0x05
  | 4 => 0x02
  | 6 => 0x03
  | 8 => 0x00
  | 9 => 0x07
  | 12 => 0x01
  | _ => 0xFF

/-- RESOLVE: the code of the hat at the walk index from that hat's mask (R152). -/
def runResolve (s : State) : State :=
  { s with povCode := s.povCode.set s.hatIx (resolveMask (s.povMask.get s.hatIx)) }

/-- RESOLVE. -/
def execResolve (s : State) : Answer := .next (runResolve s)

end Sys2Proof.Machine
end

