-- ==== Sys2Proof/Machine/NormalMode.lean ====
section
/-! DEFINITION. NORMAL and INVERTED (41_mode_normal_inverted.md R100, R101, R104). -/

namespace Sys2Proof.Machine

/-- The arm of R100 for the effective sample `smp`. -/
def normalArm (smp : Bool) (c : Configuration) (now : U32) (r : Slot) : Arm :=
  chooseArm r.pending (differs smp r.prevState) (deb c now r) false .rests

/-- The commit action of R101: the same bit to `current_state` and `prev_state`, added to `press_count`. -/
def normalCommit (o : Overflow) (smp : Bool) (r : Slot) : Slot :=
  { r with currentState := smp, prevState := smp, pressCount := addPress o r.pressCount smp }

/-- R100 on a slot record, with the effective sample given ("shared path", R104). -/
def normalAdvance (s : State) (smp : Bool) (r : Slot) : Slot :=
  applyArm (normalArm smp s.cfg s.inp.nowMs r) s.inp.nowMs (normalCommit s.params.overflow smp) id r

/-- NORMAL (R100) on the slot at the walk index. -/
def runNormal (s : State) : State := s.onSlot fun r => normalAdvance s r.pinState r

/-- INVERTED (R104): NORMAL with `s = !pin_state` (R82). -/
def runInverted (s : State) : State := s.onSlot fun r => normalAdvance s (!r.pinState) r

/-- NORMAL. -/
def execNormal (s : State) : Answer := .next (runNormal s)

/-- INVERTED. -/
def execInverted (s : State) : Answer := .next (runInverted s)

end Sys2Proof.Machine
end

