-- ==== Sys2Proof/Machine/PinRoles.lean ====
section
/-! DEFINITION. What a pin of each role does when the orchestrator's walk reaches it (30_encoding.md R66, R67;
46_scan_orchestrator.md R163, R167, R178). The pin is the one at the walk index. -/

namespace Sys2Proof.Machine

/-- UNUSED: the pin produces no slot (R66). -/
def runUnused (s : State) : State := s

/-- ROW in step 1 (R163): the row's level while a column is driven low, low being active. With no column driven no row
is sampled (R178; log 11). -/
def runRow (s : State) : State :=
  match s.columnDrive with
  | none => s
  | some c =>
    let level := s.matrixLevel (s.pinsBelow .column c).length (s.pinsBelow .row s.pinIx).length
    s.appendSample (!level)

/-- The row walk inside one column of step 1: pin `q`, if it is a row. -/
def rowVisit (q : Nat) (s : State) : State :=
  if s.roleAt q = .row then runRow { s with pinIx := q } else s

/-- COLUMN in step 1 (R163, R178): drive the column low, sample every row in ascending order, release the column. -/
def runColumn (s : State) : State :=
  let driven := { s with columnDrive := some s.pinIx }
  let sampled := runOver rowVisit (List.range s.params.P) driven
  { sampled with columnDrive := none, pinIx := s.pinIx }

/-- BTN_GND in step 4 (R167): active when the pin reads low. -/
def runBtnGnd (s : State) : State := s.appendSample (!s.pinLevel s.pinIx)

/-- BTN_VCC in step 4 (R167): active when the pin reads high. -/
def runBtnVcc (s : State) : State := s.appendSample (s.pinLevel s.pinIx)

/-- ROLE_RESERVED: treated as UNUSED (R67). -/
def runRoleReserved (_ : Byte) (s : State) : State := runUnused s

/-- UNUSED. -/
def execUnused (s : State) : Answer := .next (runUnused s)

/-- COLUMN. -/
def execColumn (s : State) : Answer := .next (runColumn s)

/-- ROW. -/
def execRow (s : State) : Answer := .next (runRow s)

/-- BTN_GND. -/
def execBtnGnd (s : State) : Answer := .next (runBtnGnd s)

/-- BTN_VCC. -/
def execBtnVcc (s : State) : Answer := .next (runBtnVcc s)

/-- ROLE_RESERVED. -/
def execRoleReserved (m : Byte) (s : State) : Answer := .next (runRoleReserved m s)

end Sys2Proof.Machine
end

