-- ==== Sys2Proof/Machine/PovMode.lean ====
section
/-! DEFINITION. The POV direction modes (44_mode_pov_direction.md R140 to R142) and the reserved mode bytes
(40_debounce_common.md R86). -/

namespace Sys2Proof.Machine

/-- The arm of R140: NORMAL's skeleton on the plain sample. -/
def povArm (c : Configuration) (now : U32) (r : Slot) : Arm :=
  chooseArm r.pending (differs r.pinState r.prevState) (deb c now r) false .rests

/-- The slot's part of the commit action of R140: `current_state` is not written. -/
def povCommit (o : Overflow) (r : Slot) : Slot :=
  { r with prevState := r.pinState, pressCount := addPress o r.pressCount r.pinState }

/-- R140 on a slot record. -/
def povAdvance (s : State) (r : Slot) : Slot :=
  applyArm (povArm s.cfg s.inp.nowMs r) s.inp.nowMs (povCommit s.params.overflow) id r

/-- The mask's part of the commit action of R140: the owned bit takes the sample, the other bits stay (R141). -/
def povMaskAfter (s : State) (h : Hat) (d : Nat) (r : Slot) : Hats Mask :=
  if (povArm s.cfg s.inp.nowMs r).committed then
    s.povMask.set h (maskWrite (s.povMask.get h) (directionBit d) r.pinState)
  else s.povMask

/-- R140 on the slot at the walk index, for hat `h` and direction `d`. -/
def runPov (h : Hat) (d : Nat) (s : State) : State :=
  match s.slotHere with
  | none => s
  | some r => { s.onSlot (povAdvance s) with povMask := povMaskAfter s h d r }

/-- POV_UP: direction 0, mask bit 8. -/
def runPovUp (h : Hat) (s : State) : State := runPov h 0 s

/-- POV_RIGHT: direction 1, mask bit 4. -/
def runPovRight (h : Hat) (s : State) : State := runPov h 1 s

/-- POV_DOWN: direction 2, mask bit 2. -/
def runPovDown (h : Hat) (s : State) : State := runPov h 2 s

/-- POV_LEFT: direction 3, mask bit 1. -/
def runPovLeft (h : Hat) (s : State) : State := runPov h 3 s

/-- MODE_RESERVED (R86): the advance writes nothing. -/
def runModeReserved (_ : Byte) (s : State) : State := s

/-- POV_UP. -/
def execPovUp (h : Hat) (s : State) : Answer := .next (runPovUp h s)

/-- POV_RIGHT. -/
def execPovRight (h : Hat) (s : State) : Answer := .next (runPovRight h s)

/-- POV_DOWN. -/
def execPovDown (h : Hat) (s : State) : Answer := .next (runPovDown h s)

/-- POV_LEFT. -/
def execPovLeft (h : Hat) (s : State) : Answer := .next (runPovLeft h s)

/-- MODE_RESERVED. -/
def execModeReserved (m : Byte) (s : State) : Answer := .next (runModeReserved m s)

end Sys2Proof.Machine
end

