-- ==== Sys2Proof/Machine/SwitchMode.lean ====
section
/-! DEFINITION. TOGGLE_SWITCH, TOGGLE_SWITCH_ON, TOGGLE_SWITCH_OFF (43_mode_toggle_switch.md R120 to R128). -/

namespace Sys2Proof.Machine

/-- The arm shared by the three switch modes; they differ in the qualifying condition `q`. The auto-release guard is
`hold` alone (R124). -/
def switchArm (q : Bool) (c : Configuration) (now : U32) (r : Slot) : Arm :=
  chooseArm r.pending q (deb c now r) (hold c now r) .autoReleases

/-- The commit action of R120, R121: every commit counts, `current_state` is 1, `prev_state` follows the sample. -/
def switchCommit (o : Overflow) (r : Slot) : Slot :=
  { r with currentState := true, prevState := r.pinState, pressCount := addPress o r.pressCount true }

/-- The auto-release of TOGGLE_SWITCH (R124). -/
def pulseEnd (r : Slot) : Slot := { r with currentState := false }

/-- The auto-release of TOGGLE_SWITCH_ON and TOGGLE_SWITCH_OFF (R124): `prev_state` follows the sample as well. -/
def pulseEndResync (r : Slot) : Slot := { r with currentState := false, prevState := r.pinState }

/-- A switch mode on a slot record. -/
def switchAdvance (s : State) (q : Bool) (release : Slot → Slot) (r : Slot) : Slot :=
  applyArm (switchArm q s.cfg s.inp.nowMs r) s.inp.nowMs (switchCommit s.params.overflow) release r

/-- TOGGLE_SWITCH (R120) on the slot at the walk index. -/
def runToggleSwitch (s : State) : State :=
  s.onSlot fun r => switchAdvance s (differs r.pinState r.prevState) pulseEnd r

/-- TOGGLE_SWITCH_ON (R126): opens and commits on a rise only. -/
def runToggleSwitchOn (s : State) : State :=
  s.onSlot fun r => switchAdvance s (rose r.pinState r.prevState) pulseEndResync r

/-- TOGGLE_SWITCH_OFF (R128): opens and commits on a fall only. -/
def runToggleSwitchOff (s : State) : State :=
  s.onSlot fun r => switchAdvance s (fell r.pinState r.prevState) pulseEndResync r

/-- TOGGLE_SWITCH. -/
def execToggleSwitch (s : State) : Answer := .next (runToggleSwitch s)

/-- TOGGLE_SWITCH_ON. -/
def execToggleSwitchOn (s : State) : Answer := .next (runToggleSwitchOn s)

/-- TOGGLE_SWITCH_OFF. -/
def execToggleSwitchOff (s : State) : Answer := .next (runToggleSwitchOff s)

end Sys2Proof.Machine
end

