-- ==== Sys2Proof/Machine/ToggleMode.lean ====
section
/-! DEFINITION. TOGGLE (42_mode_toggle.md R110 to R113). -/

namespace Sys2Proof.Machine

/-- The arm of R110. The release arm is not gated on `pending` (R111). -/
def toggleArm (c : Configuration) (now : U32) (r : Slot) : Arm :=
  chooseArm r.pending (rose r.pinState r.prevState) (deb c now r) (!r.pinState && deb c now r) .releases

/-- The commit action of R110. -/
def toggleCommit (o : Overflow) (r : Slot) : Slot :=
  { r with prevState := true, currentState := !r.currentState, pressCount := addPress o r.pressCount true }

/-- The release action of R110: `current_state` is not touched (R112). -/
def toggleRelease (r : Slot) : Slot := { r with prevState := false }

/-- R110 on a slot record. -/
def toggleAdvance (s : State) (r : Slot) : Slot :=
  applyArm (toggleArm s.cfg s.inp.nowMs r) s.inp.nowMs (toggleCommit s.params.overflow) toggleRelease r

/-- TOGGLE on the slot at the walk index. -/
def runToggle (s : State) : State := s.onSlot (toggleAdvance s)

/-- TOGGLE. -/
def execToggle (s : State) : Answer := .next (runToggle s)

end Sys2Proof.Machine
end

