-- ==== Sys2Proof/Machine/Orchestrator.lean ====
section
/-! DEFINITION. The eight steps of the scan cycle (46_scan_orchestrator.md R163 to R176) and the advance they dispatch
(40_debounce_common.md R80, R87). -/

namespace Sys2Proof.Machine

/-- R80: the advance that a decoded mode byte selects, on the slot at the walk index. A mode byte decodes to a MODE8
operation only. -/
def runMode (i : Instr) (s : State) : State :=
  match i with
  | .normal => runNormal s
  | .inverted => runInverted s
  | .toggle => runToggle s
  | .toggleSwitch => runToggleSwitch s
  | .toggleSwitchOn => runToggleSwitchOn s
  | .toggleSwitchOff => runToggleSwitchOff s
  | .povUp h => runPovUp h s
  | .povRight h => runPovRight h s
  | .povDown h => runPovDown h s
  | .povLeft h => runPovLeft h s
  | .modeReserved m => runModeReserved m s
  | .unused => s
  | .column => s
  | .row => s
  | .btnGnd => s
  | .btnVcc => s
  | .roleReserved _ => s
  | .scanMatrix => s
  | .appendShiftreg => s
  | .appendAxis => s
  | .appendDirect => s
  | .mergeEncoder => s
  | .advanceAll => s
  | .resolvePov => s
  | .rebuildBitmap => s
  | .resolve => s

/-- The arm that a mode executes on a slot record. -/
def armOf (i : Instr) (c : Configuration) (now : U32) (r : Slot) : Arm :=
  match i with
  | .normal => normalArm r.pinState c now r
  | .inverted => normalArm (!r.pinState) c now r
  | .toggle => toggleArm c now r
  | .toggleSwitch => switchArm (differs r.pinState r.prevState) c now r
  | .toggleSwitchOn => switchArm (rose r.pinState r.prevState) c now r
  | .toggleSwitchOff => switchArm (fell r.pinState r.prevState) c now r
  | .povUp _ => povArm c now r
  | .povRight _ => povArm c now r
  | .povDown _ => povArm c now r
  | .povLeft _ => povArm c now r
  | .modeReserved _ => .rests
  | .unused => .rests
  | .column => .rests
  | .row => .rests
  | .btnGnd => .rests
  | .btnVcc => .rests
  | .roleReserved _ => .rests
  | .scanMatrix => .rests
  | .appendShiftreg => .rests
  | .appendAxis => .rests
  | .appendDirect => .rests
  | .mergeEncoder => .rests
  | .advanceAll => .rests
  | .resolvePov => .rests
  | .rebuildBitmap => .rests
  | .resolve => .rests

/-- R80: `advance(i, now_ms)`. The walk index is the slot, and the mode byte of that slot selects the rule; a slot
without a loaded mode byte is left alone (log 12). -/
def advance (i : Nat) (s : State) : State :=
  match s.modeAt i with
  | none => { s with slotIx := i }
  | some m => runMode m { s with slotIx := i }

/-- R87: the returned triple `(committed, current_state, press_count)` of the advance of slot `i` in this state, the
two fields read after it. It is not latched (R44); none where there is no such slot. -/
def advanceReturn (i : Nat) (s : State) : Option (Bool × Bool × U32) :=
  match s.slots[i]?, s.modeAt i, (advance i s).slots[i]? with
  | some r, some m, some r' => some ((armOf m s.cfg s.inp.nowMs r).committed, r'.currentState, r'.pressCount)
  | _, _, _ => none

/-- Pin `p` in the outer walk of step 1. -/
def columnVisit (p : Nat) (s : State) : State :=
  if s.roleAt p = .column then runColumn { s with pinIx := p } else s

/-- Step 1, SCAN_MATRIX (R163): every column in ascending pin order. -/
def runScanMatrix (s : State) : State :=
  { runOver columnVisit (List.range s.params.P) s with pinIx := 0 }

/-- Step 2, APPEND_SHIFTREG (R164): no polarity correction. -/
def runAppendShiftreg (s : State) : State :=
  runOver (fun b s => s.appendSample (s.srLevel b)) (List.range s.cfg.srCount) s

/-- Step 3, APPEND_AXIS (R166). -/
def runAppendAxis (s : State) : State :=
  runOver (fun a s => s.appendSample (s.axLevel a)) (List.range s.cfg.axisCount) s

/-- Pin `p` in the walk of step 4. -/
def directVisit (p : Nat) (s : State) : State :=
  if s.roleAt p = .btnGnd then runBtnGnd { s with pinIx := p }
  else if s.roleAt p = .btnVcc then runBtnVcc { s with pinIx := p }
  else s

/-- Step 4, APPEND_DIRECT (R167): after it `slot_count` takes the cursor. -/
def runAppendDirect (s : State) : State :=
  let t := runOver directVisit (List.range s.params.P) s
  { t with pinIx := 0, slotCount := t.k }

/-- Slot `i` in step 5: a present encoder value replaces the sample. -/
def mergeSlot (i : Nat) (s : State) : State :=
  match s.encAt i with
  | none => s
  | some v => { s with sample := s.sample.set i v }

/-- Step 5, MERGE_ENCODER (R169). -/
def runMergeEncoder (s : State) : State := runOver mergeSlot (List.range s.slotCount) s

/-- Step 6, ADVANCE_ALL (R172): every assigned slot, ascending. -/
def runAdvanceAll (s : State) : State :=
  { runOver advance (List.range s.slotCount) s with slotIx := 0 }

/-- Hat `h` in step 7. -/
def resolveHat (h : Hat) (s : State) : State := runResolve { s with hatIx := h }

/-- Step 7, RESOLVE_POV (R175): the four hats in order. It writes no mask (R173). -/
def runResolvePov (s : State) : State :=
  { resolveHat 3 (resolveHat 2 (resolveHat 1 (resolveHat 0 s))) with hatIx := 0 }

/-- Slot `i` in step 8. -/
def packSlot (i : Nat) (s : State) : State :=
  match s.slots[i]? with
  | none => s
  | some r => { s with outBitmap := s.outBitmap.setBit i r.currentState }

/-- Step 8, REBUILD_BITMAP (R176): every byte to 0, then the bit of every assigned slot. -/
def runRebuildBitmap (s : State) : State :=
  runOver packSlot (List.range s.slotCount) { s with outBitmap := [] }

/-- SCAN_MATRIX. -/
def execScanMatrix (s : State) : Answer := .next (runScanMatrix s)

/-- APPEND_SHIFTREG. -/
def execAppendShiftreg (s : State) : Answer := .next (runAppendShiftreg s)

/-- APPEND_AXIS. -/
def execAppendAxis (s : State) : Answer := .next (runAppendAxis s)

/-- APPEND_DIRECT. -/
def execAppendDirect (s : State) : Answer := .next (runAppendDirect s)

/-- MERGE_ENCODER. -/
def execMergeEncoder (s : State) : Answer := .next (runMergeEncoder s)

/-- ADVANCE_ALL. -/
def execAdvanceAll (s : State) : Answer := .next (runAdvanceAll s)

/-- RESOLVE_POV. -/
def execResolvePov (s : State) : Answer := .next (runResolvePov s)

/-- REBUILD_BITMAP. -/
def execRebuildBitmap (s : State) : Answer := .next (runRebuildBitmap s)

end Sys2Proof.Machine
end

