-- ==== Sys2Proof/Machine/Dispatch.lean ====
section
/-! DEFINITION. One arm per operation of spec/opcode_table.json. -/

namespace Sys2Proof.Machine

def exec (i : Instr) (s : State) : Host.Outcome State Fault Refusal :=
  match i with
  -- the advance of the slot at the walk index (MODE8)
  | .normal => Sys2Proof.Machine.execNormal s
  | .inverted => Sys2Proof.Machine.execInverted s
  | .toggle => Sys2Proof.Machine.execToggle s
  | .toggleSwitch => Sys2Proof.Machine.execToggleSwitch s
  | .toggleSwitchOn => Sys2Proof.Machine.execToggleSwitchOn s
  | .toggleSwitchOff => Sys2Proof.Machine.execToggleSwitchOff s
  | .povUp hat => Sys2Proof.Machine.execPovUp hat s
  | .povRight hat => Sys2Proof.Machine.execPovRight hat s
  | .povDown hat => Sys2Proof.Machine.execPovDown hat s
  | .povLeft hat => Sys2Proof.Machine.execPovLeft hat s
  | .modeReserved byte => Sys2Proof.Machine.execModeReserved byte s
  -- the pin at the walk index (ROLE8)
  | .unused => Sys2Proof.Machine.execUnused s
  | .column => Sys2Proof.Machine.execColumn s
  | .row => Sys2Proof.Machine.execRow s
  | .btnGnd => Sys2Proof.Machine.execBtnGnd s
  | .btnVcc => Sys2Proof.Machine.execBtnVcc s
  | .roleReserved byte => Sys2Proof.Machine.execRoleReserved byte s
  -- the steps of the scan cycle (SEQSTEP)
  | .scanMatrix => Sys2Proof.Machine.execScanMatrix s
  | .appendShiftreg => Sys2Proof.Machine.execAppendShiftreg s
  | .appendAxis => Sys2Proof.Machine.execAppendAxis s
  | .appendDirect => Sys2Proof.Machine.execAppendDirect s
  | .mergeEncoder => Sys2Proof.Machine.execMergeEncoder s
  | .advanceAll => Sys2Proof.Machine.execAdvanceAll s
  | .resolvePov => Sys2Proof.Machine.execResolvePov s
  | .rebuildBitmap => Sys2Proof.Machine.execRebuildBitmap s
  -- the hat at the walk index (FUNC)
  | .resolve => Sys2Proof.Machine.execResolve s

end Sys2Proof.Machine
end

