-- ==== Sys2Proof/Machine/Step.lean ====
section
/-! DEFINITION. One step of the machine: what stands at the sequencer's position (46_scan_orchestrator.md R162). -/

namespace Sys2Proof.Machine

/-- One step. At a step of the cycle the SEQSTEP instruction is read, run, and left for the next position; at the
latch the samples are latched (R171); at rest the next scan request is accepted (R193). -/
def step (s : State) : Host.Outcome State Fault Refusal :=
  match s.fetch with
  | some i =>
    match exec i s with
    | .next t => .next t.leave
    | .fault r => .fault r
    | .refused r => .refused r
  | none =>
    match s.seq with
    | .latch => .next s.latchAll.leave
    | .idle => .next s.restStep
    | p => .next { s with seq := p }

/-- The state with a table word placed where the next step reads it (log 4, log 14). -/
def State.withFetchWord (s : State) (nbits w : Nat) : State := s.placeWord nbits w

end Sys2Proof.Machine
end

