-- ==== Sys2Proof/Machine/Environment.lean ====
section
/-! DEFINITION. The operations the environment performs on the block (60_exceptions.md R200). The fourth, requesting a
scan cycle, is `State.requestCycle` of Machine/Ops.lean. -/

namespace Sys2Proof.Machine

/-- Loading the configuration (R200, R222): before a run, in either order with the reset (R223). DESIGN CHOICE (log 28):
R51 promises nothing if the configuration is changed during a run, R200 does not allow it, and R201 and U5 leave its
effect unspecified. This operation has no guard: applied during a run, inside a cycle or between two without a reset, it
replaces the configuration at once and keeps every other field. No step performs it. -/
def State.loadConfiguration (c : Configuration) (s : State) : State := { s with cfg := c }

/-- Reset (R220): power-on. It reads neither the state of the block nor the clock, and leaves the configuration and what
the environment schedules (R221). DESIGN CHOICE (log 27): R200 allows reset only outside a cycle and gives it no effect
inside one; here a reset inside a cycle has the same effect and abandons the cycle. The model's counter of accepted
cycles runs on, so that an undelivered line after a second power-on is again any value (U7; log 6). -/
def State.powerOn (s : State) : State := { State.resetOf s.params s.cfg s.stimulus with cycles := s.cycles }

/-- What the reporting layer reads (R177, R200): the bytes of OutputBitmap and the four direction codes. -/
structure Outputs where
  bitmap : List Byte
  codes : Hats Byte
deriving DecidableEq, Repr

/-- Reading the outputs through the copy accessor (R46): the snapshot, never the arrays in work. -/
def State.readOutputs (s : State) : Outputs :=
  { bitmap := (List.range s.params.bmBytes).map s.shownBitmap.read, codes := s.shownCode }

end Sys2Proof.Machine
end

