-- ==== Sys2Proof/Safety.lean ====
section
/-! DEFINITION. The terms the statements use: the invariants of a legal state, the mode rules transcribed from the
spec's pseudocode (files 41 to 44), and a whole scan cycle in closed form (46_scan_orchestrator.md R170, R181). Nothing
here is used by the machine. -/

namespace Sys2Proof.Safety

open Sys2Proof.Machine

/-! ### The rules of the advance, as the spec writes them -/

/-- R81, on numbers: `(now_ms - time_last) mod 2^32`. -/
def elapsedMs (now last : U32) : Nat := (now.toNat + 2 ^ 32 - last.toNat) % 2 ^ 32

/-- R81 `deb`: more than `debounce_ms` has passed. -/
def debounceOver (c : Configuration) (now : U32) (r : Slot) : Bool :=
  decide (c.debounceMs.toNat < elapsedMs now r.timeLast)

/-- R81 `hold`: more than `hold_release_ms` has passed. -/
def holdOver (c : Configuration) (now : U32) (r : Slot) : Bool :=
  decide (c.holdReleaseMs.toNat < elapsedMs now r.timeLast)

/-- R17: `n + x` by `press_count_overflow`. -/
def countPlus (o : Overflow) (n : U32) (x : Bool) : U32 :=
  if x = true then
    if o = .saturate ∧ n.toNat = 2 ^ 32 - 1 then n else BitVec.ofNat 32 (n.toNat + 1)
  else n

/-- The open action of every mode (R83). -/
def opened (now : U32) (r : Slot) : Slot := { r with timeLast := now, pending := true }

/-- The abort action of every mode (R85). -/
def aborted (r : Slot) : Slot := { r with pending := false }

/-- R100 with `s` the effective sample (R82); R104 is the same chain on the inverted sample. -/
def chainNormal (smp : Bool) (o : Overflow) (c : Configuration) (now : U32) (r : Slot) : Slot :=
  if r.pending = false ∧ smp ≠ r.prevState then opened now r
  else if r.pending = true ∧ smp ≠ r.prevState ∧ debounceOver c now r = true then
    { r with currentState := smp, prevState := smp, pressCount := countPlus o r.pressCount smp, pending := false }
  else if r.pending = true ∧ debounceOver c now r = true then aborted r
  else r

/-- R110. -/
def chainToggle (o : Overflow) (c : Configuration) (now : U32) (r : Slot) : Slot :=
  if r.pending = false ∧ r.pinState = true ∧ r.prevState = false then opened now r
  else if r.pending = true ∧ r.pinState = true ∧ r.prevState = false ∧ debounceOver c now r = true then
    { r with prevState := true, currentState := !r.currentState, pressCount := countPlus o r.pressCount true,
             pending := false }
  else if r.pinState = false ∧ debounceOver c now r = true then { r with pending := false, prevState := false }
  else if r.pending = true ∧ debounceOver c now r = true then aborted r
  else r

/-- R120. -/
def chainToggleSwitch (o : Overflow) (c : Configuration) (now : U32) (r : Slot) : Slot :=
  if r.pending = false ∧ r.pinState ≠ r.prevState then opened now r
  else if r.pending = true ∧ r.pinState ≠ r.prevState ∧ debounceOver c now r = true then
    { r with currentState := true, prevState := r.pinState, pressCount := countPlus o r.pressCount true,
             pending := false }
  else if holdOver c now r = true then { r with currentState := false, pending := false }
  else if r.pending = true ∧ debounceOver c now r = true then aborted r
  else r

/-- R126. -/
def chainToggleSwitchOn (o : Overflow) (c : Configuration) (now : U32) (r : Slot) : Slot :=
  if r.pending = false ∧ r.pinState = true ∧ r.prevState = false then opened now r
  else if r.pending = true ∧ r.pinState = true ∧ r.prevState = false ∧ debounceOver c now r = true then
    { r with currentState := true, prevState := true, pressCount := countPlus o r.pressCount true, pending := false }
  else if holdOver c now r = true then { r with currentState := false, pending := false, prevState := r.pinState }
  else if r.pending = true ∧ debounceOver c now r = true then aborted r
  else r

/-- R128. -/
def chainToggleSwitchOff (o : Overflow) (c : Configuration) (now : U32) (r : Slot) : Slot :=
  if r.pending = false ∧ r.pinState = false ∧ r.prevState = true then opened now r
  else if r.pending = true ∧ r.pinState = false ∧ r.prevState = true ∧ debounceOver c now r = true then
    { r with currentState := true, prevState := false, pressCount := countPlus o r.pressCount true, pending := false }
  else if holdOver c now r = true then { r with currentState := false, pending := false, prevState := r.pinState }
  else if r.pending = true ∧ debounceOver c now r = true then aborted r
  else r

/-- R140, the commit guard. -/
abbrev PovCommits (c : Configuration) (now : U32) (r : Slot) : Prop :=
  r.pending = true ∧ r.pinState ≠ r.prevState ∧ debounceOver c now r = true

/-- R140, the slot's part. -/
def chainPov (o : Overflow) (c : Configuration) (now : U32) (r : Slot) : Slot :=
  if r.pending = false ∧ r.pinState ≠ r.prevState then opened now r
  else if PovCommits c now r then
    { r with prevState := r.pinState, pressCount := countPlus o r.pressCount r.pinState, pending := false }
  else if r.pending = true ∧ debounceOver c now r = true then aborted r
  else r

/-- The chain of a mode; every operation that is no mode leaves the record alone. -/
def chainOf (m : Instr) (o : Overflow) (c : Configuration) (now : U32) (r : Slot) : Slot :=
  match m with
  | .normal => chainNormal r.pinState o c now r
  | .inverted => chainNormal (!r.pinState) o c now r
  | .toggle => chainToggle o c now r
  | .toggleSwitch => chainToggleSwitch o c now r
  | .toggleSwitchOn => chainToggleSwitchOn o c now r
  | .toggleSwitchOff => chainToggleSwitchOff o c now r
  | .povUp _ => chainPov o c now r
  | .povRight _ => chainPov o c now r
  | .povDown _ => chainPov o c now r
  | .povLeft _ => chainPov o c now r
  | .modeReserved _ => r
  | .unused => r
  | .column => r
  | .row => r
  | .btnGnd => r
  | .btnVcc => r
  | .roleReserved _ => r
  | .scanMatrix => r
  | .appendShiftreg => r
  | .appendAxis => r
  | .appendDirect => r
  | .mergeEncoder => r
  | .advanceAll => r
  | .resolvePov => r
  | .rebuildBitmap => r
  | .resolve => r

/-- The hat and the direction (0 Up, 1 Right, 2 Down, 3 Left) a mode owns (R140). -/
def povOwner (m : Instr) : Option (Hat × Nat) :=
  match m with
  | .povUp h => some (h, 0)
  | .povRight h => some (h, 1)
  | .povDown h => some (h, 2)
  | .povLeft h => some (h, 3)
  | .normal => none
  | .inverted => none
  | .toggle => none
  | .toggleSwitch => none
  | .toggleSwitchOn => none
  | .toggleSwitchOff => none
  | .modeReserved _ => none
  | .unused => none
  | .column => none
  | .row => none
  | .btnGnd => none
  | .btnVcc => none
  | .roleReserved _ => none
  | .scanMatrix => none
  | .appendShiftreg => none
  | .appendAxis => none
  | .appendDirect => none
  | .mergeEncoder => none
  | .advanceAll => none
  | .resolvePov => none
  | .rebuildBitmap => none
  | .resolve => none

/-- The weight of a direction (R61, R64): Up 8, Right 4, Down 2, Left 1. -/
def weight (d : Nat) : Mask :=
  match d with
  | 0 => 8
  | 1 => 4
  | 2 => 2
  | _ => 1

/-- R140, the mask's part of a commit: set or clear the slot's own bit of its own hat, and nothing else. -/
def maskCommitted (t : Hats Mask) (h : Hat) (d : Nat) (level : Bool) : Hats Mask :=
  t.set h (if level = true then t.get h ||| weight d else t.get h &&& ~~~(weight d))

/-! ### A whole scan cycle in closed form -/

/-- The matrix samples in slot order: column-major pairs (R163, R170), low being active. -/
def matrixSamples (s : State) : List Bool :=
  (List.range (s.pinCount .column)).flatMap fun c =>
    (List.range (s.pinCount .row)).map fun r => !(s.matrixLevel c r)

/-- The direct buttons in pin order (R167). -/
def directSamples (s : State) : List Bool :=
  (List.range s.params.P).filterMap fun p =>
    if s.roleAt p = .btnGnd then some (!(s.pinLevel p))
    else if s.roleAt p = .btnVcc then some (s.pinLevel p)
    else none

/-- R170: every sample in assignment order, truncated at N (R168). -/
def assignedSamples (s : State) : List Bool :=
  (matrixSamples s ++ (List.range s.cfg.srCount).map s.srLevel ++ (List.range s.cfg.axisCount).map s.axLevel ++
    directSamples s).take s.params.N

/-- R28: `min(N, cols × rows + sr_count + axis_count + direct)`. -/
def assignedCount (s : State) : Nat :=
  min s.params.N (s.pinCount .column * s.pinCount .row + s.cfg.srCount + s.cfg.axisCount +
    (s.pinCount .btnGnd + s.pinCount .btnVcc))

/-- The sample slot `i` latches: the assigned one, or the encoder's where one is present (R169). -/
def latchedSample (s : State) (i : Nat) : Option Bool :=
  match (assignedSamples s)[i]? with
  | none => none
  | some v =>
    match s.encAt i with
    | some e => some e
    | none => some v

/-- R171: slot `i` after the latch; an unassigned slot is not touched. -/
def latched (s : State) (i : Nat) (r : Slot) : Slot :=
  match latchedSample s i with
  | none => r
  | some v => { r with pinPrevState := r.pinState, pinState := v }

/-- Slot `i` after the cycle: latched, then advanced by its mode if it is assigned (R172). -/
def slotAfter (s : State) (i : Nat) (r : Slot) : Slot :=
  if i < assignedCount s then
    match s.modeAt i with
    | none => latched s i r
    | some m => chainOf m s.params.overflow s.cfg s.inp.nowMs (latched s i r)
  else r

/-- The mask write of slot `i` on the record `r`, if it is a POV slot that commits. -/
def maskCommitWith (s : State) (t : Hats Mask) (i : Nat) (r : Slot) : Hats Mask :=
  match (s.modeAt i).bind povOwner with
  | some (h, d) => if PovCommits s.cfg s.inp.nowMs r then maskCommitted t h d r.pinState else t
  | none => t

/-- The mask write of slot `i` in step 6, on its record as it stands. -/
def maskCommitAt (s : State) (t : Hats Mask) (i : Nat) : Hats Mask :=
  match s.slots[i]? with
  | some r => maskCommitWith s t i r
  | none => t

/-- The mask write of slot `i` in the cycle, on its record after the latch. -/
def maskAfterSlot (s : State) (t : Hats Mask) (i : Nat) : Hats Mask :=
  match s.slots[i]? with
  | some r => maskCommitWith s t i (latched s i r)
  | none => t

/-- The masks after the cycle: the commits of the assigned slots in ascending order (R144, R172). -/
def masksAfter (s : State) : Hats Mask := (List.range (assignedCount s)).foldl (maskAfterSlot s) s.povMask

/-- R176: the bitmap shows the slots: the bit of each of the first `n` is its `current_state`, the others are 0. -/
def BitmapShows (s : State) (n : Nat) : Prop :=
  ∀ (i : Nat) r, s.slots[i]? = some r → s.outBitmap.bit i = (decide (i < n) && r.currentState)

/-! ### Samples, fetched instructions, settled slots -/

/-- R27, R168: `t` is `s` after the samples `vs` were assigned in order: the cursor moves up to N, sample n lands at
`k + n` while there is room, and every other entry of the staging array is as before. -/
def Assigned (vs : List Bool) (s t : State) : Prop :=
  t.k = min s.params.N (s.k + vs.length) ∧
  ∀ j, t.sample[j]? =
    if s.k ≤ j ∧ j < s.params.N ∧ j - s.k < vs.length then vs[j - s.k]? else s.sample[j]?

/-- `s` with the slot record at the walk index replaced, and nothing else changed. -/
def withSlotHere (s : State) (r : Slot) : State := { s with slots := s.slots.set s.slotIx r }

/-- `s` with the clock at `now` and `level` as the new sample of the slot at the walk index, latched as R171 says. -/
def sampleNow (now : U32) (level : Bool) (s : State) : State :=
  { s with
    inp := { s.inp with nowMs := now }
    slots := s.slots.modify s.slotIx fun r => { r with pinPrevState := r.pinState, pinState := level } }

/-- The state of an answer, or `s` where the machine stopped. -/
def answerOr (s : State) (a : Answer) : State :=
  match a with
  | .next t => t
  | .fault _ => s
  | .refused _ => s

/-- The advances of a mode with the pin held at one level, at each time of a list in turn. -/
def heldAt (m : Instr) (level : Bool) (times : List U32) (s : State) : State :=
  times.foldl (fun u now => answerOr u (exec m (sampleNow now level u))) s

/-- Slot `i` in step 6: its mode byte is decoded and the instruction executed with `i` as the walk index. -/
def modeVisit (s : State) (i : Nat) : State :=
  match s.cfg.mode[i]? with
  | none => { s with slotIx := i }
  | some b =>
    match decode .mode8 [b] with
    | .ok (m, _) => answerOr s (exec m { s with slotIx := i })
    | .error _ => s

/-- Pin `p` in a walk for the pins of role `want`: its role byte is decoded, and where it is that role the instruction
is executed with `p` as the walk index. -/
def pinVisit (want : Instr) (s : State) (p : Nat) : State :=
  match s.cfg.pinRole[p]? with
  | none => s
  | some b =>
    match decode .role8 [b] with
    | .ok (i, _) => if i = want then answerOr s (exec i { s with pinIx := p }) else s
    | .error _ => s

/-- Pin `p` in the walk of step 4, which takes both kinds of direct button. -/
def buttonVisit (s : State) (p : Nat) : State := pinVisit .btnVcc (pinVisit .btnGnd s p) p

/-- The qualifying condition of a mode (40_debounce_common.md section 9), on the effective sample (R82). -/
def Qualifies (m : Instr) (r : Slot) : Prop :=
  match m with
  | .normal => r.pinState ≠ r.prevState
  | .inverted => (!r.pinState) ≠ r.prevState
  | .toggle => r.pinState = true ∧ r.prevState = false
  | .toggleSwitch => r.pinState ≠ r.prevState
  | .toggleSwitchOn => r.pinState = true ∧ r.prevState = false
  | .toggleSwitchOff => r.pinState = false ∧ r.prevState = true
  | .povUp _ => r.pinState ≠ r.prevState
  | .povRight _ => r.pinState ≠ r.prevState
  | .povDown _ => r.pinState ≠ r.prevState
  | .povLeft _ => r.pinState ≠ r.prevState
  | .modeReserved _ => False
  | .unused => False
  | .column => False
  | .row => False
  | .btnGnd => False
  | .btnVcc => False
  | .roleReserved _ => False
  | .scanMatrix => False
  | .appendShiftreg => False
  | .appendAxis => False
  | .appendDirect => False
  | .mergeEncoder => False
  | .advanceAll => False
  | .resolvePov => False
  | .rebuildBitmap => False
  | .resolve => False

/-- The three modes with an auto-release (R124). -/
def SwitchMode (m : Instr) : Prop := m = .toggleSwitch ∨ m = .toggleSwitchOn ∨ m = .toggleSwitchOff

/-- R91 as 90_conflicts.md C5 reads it: no window is open, the qualifying condition is false, and a switch mode's pulse
is over. A reserved mode never has a window to wait for (R86). -/
def Settled (m : Instr) (r : Slot) : Prop :=
  r.pending = false ∧ ¬ Qualifies m r ∧ (SwitchMode m → r.currentState = false)

/-! ### Invariants -/

/-- R65: the nine direction codes. -/
def LegalCode (c : Byte) : Prop := c.toNat ≤ 7 ∨ c = 0xFF

/-- The bitmap holds bytes below `BM_BYTES` in canonical form, and its pad bits are 0 (R43). -/
structure BitmapOk (p : Params) (m : Memory) : Prop where
  canonical : m.wf = true
  inRange : m.below p.bmBytes = true
  padZero : ∀ i, p.N ≤ i → m.bit i = false

/-- What every state of a run satisfies, at rest or inside a cycle. -/
structure MachineInv (s : State) : Prop where
  paramsOk : s.params.wf = true
  configOk : s.cfg.wf s.params = true
  slotsLength : s.slots.length = s.params.N
  sampleLength : s.sample.length = s.params.N
  cursor : s.k ≤ s.params.N
  count : s.slotCount ≤ s.params.N
  noDrive : s.columnDrive = none
  slotWalkAtRest : s.slotIx = 0
  pinWalkAtRest : s.pinIx = 0
  hatWalkAtRest : s.hatIx = 0
  bitmapOk : BitmapOk s.params s.outBitmap
  shownOk : BitmapOk s.params s.shownBitmap
  codes : ∀ h, LegalCode (s.povCode.get h)
  shownCodes : ∀ h, LegalCode (s.shownCode.get h)
  shownAtRest : s.seq = .idle → s.shownBitmap = s.outBitmap ∧ s.shownCode = s.povCode
  codesFollow : s.seq ≠ .resolvePov → ∀ h, s.povCode.get h = resolveMask (s.povMask.get h)

/-- R32 (a), (b), (c), (d), and R112 for a wrapping counter: what a mode keeps of its slot record from reset on. -/
def SlotLegal (o : Overflow) (m : Instr) (r : Slot) : Prop :=
  (m = .normal ∨ m = .inverted → r.prevState = r.currentState) ∧
  (m = .toggle → r.pending = true → r.prevState = false) ∧
  (m = .toggle → o = .wrap → r.currentState = r.pressCount.getLsbD 0) ∧
  ((povOwner m).isSome = true → r.currentState = false) ∧
  ((∃ b, m = .modeReserved b) → r.prevState = false ∧ r.currentState = false ∧ r.pending = false ∧
    r.timeLast = 0 ∧ r.pressCount = 0)

/-- Slot `i` is configured for direction `d` of hat `h`. -/
def Owns (s : State) (i : Nat) (h : Hat) (d : Nat) : Prop := (s.modeAt i).bind povOwner = some (h, d)

/-- R32: the facts of a run that depend on the modes. -/
structure ModeInv (s : State) : Prop where
  legal : ∀ i m r, s.modeAt i = some m → s.slots[i]? = some r → SlotLegal s.params.overflow m r
  /-- R32 (c): the bit of a direction with exactly one owner is the owner's committed level. -/
  soleOwner : ∀ i r h d, s.slots[i]? = some r → Owns s i h d → (∀ j, Owns s j h d → j = i) →
    s.povMask.get h &&& weight d = if r.prevState = true then weight d else 0
  /-- R144: a bit no slot owns stays 0. -/
  unowned : ∀ h d, d < 4 → (∀ j, ¬ Owns s j h d) → s.povMask.get h &&& weight d = 0
  /-- R143, R240: the bit of a POV slot or of a reserved mode is 0 in the bitmap and in the snapshot. -/
  quietBits : ∀ i m, s.modeAt i = some m → ((povOwner m).isSome = true ∨ ∃ b, m = .modeReserved b) →
    s.outBitmap.bit i = false ∧ s.shownBitmap.bit i = false

/-- R27, R28: where the cursor stands at each position of the cycle, and `slot_count` from step 5 on. -/
def CursorOk (s : State) : Prop :=
  match s.seq with
  | .idle => True
  | .scanMatrix => s.k = 0
  | .appendShiftreg => s.k = min s.params.N (s.pinCount .column * s.pinCount .row)
  | .appendAxis => s.k = min s.params.N (s.pinCount .column * s.pinCount .row + s.cfg.srCount)
  | .appendDirect =>
    s.k = min s.params.N (s.pinCount .column * s.pinCount .row + s.cfg.srCount + s.cfg.axisCount)
  | .mergeEncoder => s.slotCount = assignedCount s
  | .latch => s.slotCount = assignedCount s
  | .advanceAll => s.slotCount = assignedCount s
  | .resolvePov => s.slotCount = assignedCount s
  | .rebuildBitmap => s.slotCount = assignedCount s

/-- R28 and 93_implementation_defined.md U13: `slot_count` is 0 before the first cycle and the same value after every
cycle, and the slots that the configuration never assigns keep their reset values. -/
structure AssignInv (s : State) : Prop where
  cursorOk : CursorOk s
  count : s.slotCount = 0 ∨ s.slotCount = assignedCount s
  untouched : ∀ i r, assignedCount s ≤ i → s.slots[i]? = some r → r = Slot.reset

end Sys2Proof.Safety
end

