-- ==== Sys2Proof/Certificates/Slice0/Obligations.lean ====
section
/-! DEFINITION. The statements for the provers, each a claim of spec/ about the machine. A docstring names the rule a
statement formalises; where the rule is a decision of the spec (92_eei_decisions.md) it names the decision. -/

open Sys2Proof
open Sys2Proof.Machine
open Sys2Proof.Safety

/-! ### Encoding (30_encoding.md) -/

/-- Decoding the bytes of a well-formed instruction, in its own format and before any further bytes, gives it back with
every operand (R60 to R63, R66 to R68; the numbers are the spec's decisions D5, D6, D27). -/
def Obligations.DecodeOfEncodeIsTheInstruction : Prop :=
  ∀ (i : Instr) (rest : List Byte), i.wf = true → decode i.format (encode i ++ rest) = .ok (i, rest)

/-- Whatever the decoder reads is a well-formed instruction of the format asked for, and its encoding is exactly the
bytes read: no word has two readings (R63, R67, R68; D5, D6, D27). -/
def Obligations.EncodeOfDecodeIsTheWord : Prop :=
  ∀ (f : Format) (bytes rest : List Byte) (i : Instr), decode f bytes = .ok (i, rest) →
    i.wf = true ∧ i.format = f ∧ encode i ++ rest = bytes

/-- The opcode table's rows partition the mode bytes and the role bytes, and the decoder gives each byte the mnemonic
of its row; of the sequencer's words exactly the ordinals 1 to 8 have a row and a decoding (R60, R62, R66, R67, R68). -/
def Obligations.TableRowsPartitionTheWords : Prop :=
  (∀ b : Byte, ∃ r, modeRows.filter (fun r => r.covers b) = [r] ∧ (decodeMode b).mnemonic = r.mnemonic) ∧
  (∀ b : Byte, ∃ r, roleRows.filter (fun r => r.covers b) = [r] ∧ (decodeRole b).mnemonic = r.mnemonic) ∧
  (∀ w : BitVec 4, match decodeSeqStep w with
    | .ok i => ∃ r, seqRows.filter (fun r => r.covers (w.zeroExtend 8)) = [r] ∧ i.mnemonic = r.mnemonic
    | .error e => seqRows.filter (fun r => r.covers (w.zeroExtend 8)) = [] ∧ e = .noSuchStep w)

/-- Words written out from 30_encoding.md R60, R61, R66, R68 decode to what they stand for. -/
def Obligations.WrittenWordsDecode : Prop :=
  decode .mode8 [0b00000010#8] = .ok (.toggle, []) ∧
  decode .mode8 [0b00010101#8] = .ok (.povRight 1, []) ∧
  decode .mode8 [0b00011111#8] = .ok (.povLeft 3, []) ∧
  decode .mode8 [0b00100000#8] = .ok (.modeReserved 0x20, []) ∧
  decode .role8 [0b00000011#8] = .ok (.btnGnd, []) ∧
  decode .role8 [0b00000101#8] = .ok (.roleReserved 0x05, []) ∧
  decode .seqStep [0b00000110#8] = .ok (.advanceAll, []) ∧
  decode .seqStep [0b00001001#8] = .error (.noSuchStep 9)

/-! ### The step -/

/-- At a step of the cycle the sequencer's word decodes to a well-formed instruction, and the step is `exec` of it at
this state, which answers a next state, followed by leaving the position (R162, R190). That a step of the model is one
step of R162 is log 1. -/
def Obligations.StepRunsTheDecodedInstruction : Prop :=
  ∀ (s : State) (w : BitVec 4), s.seq.ordinal = some w →
    ∃ i t, decode .seqStep [w.zeroExtend 8] = .ok (i, []) ∧ i.wf = true ∧ exec i s = .next t ∧
      step s = .next t.leave

/-- R162: the eight steps in the fixed order, the latch between steps 5 and 6, and rest after step 8. One of them a
step of the model, and the latch as a position of its own, is log 1. -/
def Obligations.StepsRunInFixedOrder : Prop :=
  ∀ s t : State, step s = .next t →
    (s.seq = .scanMatrix → t.seq = .appendShiftreg) ∧ (s.seq = .appendShiftreg → t.seq = .appendAxis) ∧
    (s.seq = .appendAxis → t.seq = .appendDirect) ∧ (s.seq = .appendDirect → t.seq = .mergeEncoder) ∧
    (s.seq = .mergeEncoder → t.seq = .latch) ∧ (s.seq = .latch → t.seq = .advanceAll) ∧
    (s.seq = .advanceAll → t.seq = .resolvePov) ∧ (s.seq = .resolvePov → t.seq = .rebuildBitmap) ∧
    (s.seq = .rebuildBitmap → t.seq = .idle)

/-- R190: every operation is total, so every instruction and every step answers a next state, whatever the state. -/
def Obligations.NothingFaultsOrRefuses : Prop :=
  (∀ (i : Instr) (s : State), ∃ t, exec i s = .next t) ∧ (∀ s : State, ∃ t, step s = .next t)

/-- R193: at rest the block does nothing without a scan request, and a request starts a cycle at step 1 with `k` = 0
(R27) and the inputs of that request (R49). The model's choices in it: a step at rest without a request answers the
same state (log 22), the schedule of requests (log 4), the counter of accepted cycles (log 6). -/
def Obligations.RestWaitsForARequest : Prop :=
  ∀ s : State, s.seq = .idle →
    (s.stimulus = [] → step s = .next s) ∧
    (∀ x later, s.stimulus = x :: later →
      step s = .next { s with stimulus := later, inp := x, k := 0, seq := .scanMatrix, cycles := s.cycles + 1 })

/-- R194 (decision D21, log 25): a scan request that arrives while a cycle runs is ignored. -/
def Obligations.RequestWhileBusyIsIgnored : Prop :=
  ∀ (s : State) (x : CycleInput), (s.seq ≠ .idle → s.requestCycle x = s) ∧
    (s.seq = .idle → (s.requestCycle x).busy = true ∧ (s.requestCycle x).inp = x)

/-- R171 (decision D23): the latch between steps 5 and 6 saves the old sample and takes the new one in every assigned
slot, touches no other slot, and writes no other field of the record and no other part of the state. -/
def Obligations.LatchTakesTheSamples : Prop :=
  ∀ s : State, s.seq = .latch → s.slotCount ≤ s.sample.length →
    ∃ t, step s = .next t ∧
      (∀ i r v, i < s.slotCount → s.slots[i]? = some r → s.sample[i]? = some v →
        t.slots[i]? = some { r with pinPrevState := r.pinState, pinState := v }) ∧
      (∀ i, s.slotCount ≤ i → t.slots[i]? = s.slots[i]?) ∧
      t = { s with slots := t.slots, seq := .advanceAll }

/-! ### The advance of one slot (files 40 to 44) -/

/-- R81: `deb` and `hold` are strict comparisons of the elapsed time modulo 2^32 with the two thresholds. -/
def Obligations.ComparatorsAreStrictAndWrap : Prop :=
  ∀ (c : Configuration) (now : U32) (r : Slot),
    (deb c now r = true ↔ c.debounceMs.toNat < elapsedMs now r.timeLast) ∧
    (hold c now r = true ↔ c.holdReleaseMs.toNat < elapsedMs now r.timeLast) ∧
    (r.timeLast.toNat ≤ now.toNat → elapsedMs now r.timeLast = now.toNat - r.timeLast.toNat) ∧
    (now.toNat < r.timeLast.toNat → elapsedMs now r.timeLast = 2 ^ 32 - (r.timeLast.toNat - now.toNat))

/-- R100: mode byte 0x00 is NORMAL, and NORMAL on the slot that is advanced is the chain of the rule, everything else of
the state unchanged; `committed` is 1 exactly in the commit arm. -/
def Obligations.NormalFollowsItsChain : Prop :=
  decodeMode 0x00 = .normal ∧ ∀ (s : State) (r : Slot), s.slotHere = some r →
    exec .normal s = .next (withSlotHere s
      (chainNormal r.pinState s.params.overflow s.cfg s.inp.nowMs r)) ∧
    ((armOf .normal s.cfg s.inp.nowMs r).committed = true ↔
      r.pending = true ∧ r.pinState ≠ r.prevState ∧ debounceOver s.cfg s.inp.nowMs r = true)

/-- R104: mode byte 0x01 is INVERTED, NORMAL's chain on the inverted sample; the stored `pin_state` is not inverted. -/
def Obligations.InvertedFollowsItsChain : Prop :=
  decodeMode 0x01 = .inverted ∧ ∀ (s : State) (r : Slot), s.slotHere = some r →
    exec .inverted s = .next (withSlotHere s
      (chainNormal (!r.pinState) s.params.overflow s.cfg s.inp.nowMs r)) ∧
    ((armOf .inverted s.cfg s.inp.nowMs r).committed = true ↔
      r.pending = true ∧ (!r.pinState) ≠ r.prevState ∧ debounceOver s.cfg s.inp.nowMs r = true)

/-- R110: mode byte 0x02 is TOGGLE, and its advance is the chain of the rule. -/
def Obligations.ToggleFollowsItsChain : Prop :=
  decodeMode 0x02 = .toggle ∧ ∀ (s : State) (r : Slot), s.slotHere = some r →
    exec .toggle s = .next (withSlotHere s
      (chainToggle s.params.overflow s.cfg s.inp.nowMs r)) ∧
    ((armOf .toggle s.cfg s.inp.nowMs r).committed = true ↔
      r.pending = true ∧ r.pinState = true ∧ r.prevState = false ∧ debounceOver s.cfg s.inp.nowMs r = true)

/-- R120: mode byte 0x03 is TOGGLE_SWITCH, and its advance is the chain of the rule. -/
def Obligations.ToggleSwitchFollowsItsChain : Prop :=
  decodeMode 0x03 = .toggleSwitch ∧ ∀ (s : State) (r : Slot), s.slotHere = some r →
    exec .toggleSwitch s = .next (withSlotHere s
      (chainToggleSwitch s.params.overflow s.cfg s.inp.nowMs r)) ∧
    ((armOf .toggleSwitch s.cfg s.inp.nowMs r).committed = true ↔
      r.pending = true ∧ r.pinState ≠ r.prevState ∧ debounceOver s.cfg s.inp.nowMs r = true)

/-- R126 to R128 (decision D8): mode bytes 0x04 and 0x05 are TOGGLE_SWITCH_ON and TOGGLE_SWITCH_OFF; they open and
commit on their own edge only, and their auto-release copies the sample to `prev_state`. -/
def Obligations.EdgeSwitchesFollowTheirChains : Prop :=
  decodeMode 0x04 = .toggleSwitchOn ∧ decodeMode 0x05 = .toggleSwitchOff ∧
  ∀ (s : State) (r : Slot), s.slotHere = some r →
    exec .toggleSwitchOn s = .next (withSlotHere s
      (chainToggleSwitchOn s.params.overflow s.cfg s.inp.nowMs r)) ∧
    exec .toggleSwitchOff s = .next (withSlotHere s
      (chainToggleSwitchOff s.params.overflow s.cfg s.inp.nowMs r)) ∧
    ((armOf .toggleSwitchOn s.cfg s.inp.nowMs r).committed = true ↔
      r.pending = true ∧ r.pinState = true ∧ r.prevState = false ∧ debounceOver s.cfg s.inp.nowMs r = true) ∧
    ((armOf .toggleSwitchOff s.cfg s.inp.nowMs r).committed = true ↔
      r.pending = true ∧ r.pinState = false ∧ r.prevState = true ∧ debounceOver s.cfg s.inp.nowMs r = true)

/-- R140: the four POV modes, for every hat: the mode byte `0x10 | (h << 2) | d`, the slot record's chain, the one mask
bit written by the commit and by nothing else, and `committed`. -/
def Obligations.PovModesFollowTheirChain : Prop :=
  ∀ (s : State) (h : Hat) (m : Instr) (d : Nat),
    (m, d) ∈ [(Instr.povUp h, 0), (Instr.povRight h, 1), (Instr.povDown h, 2), (Instr.povLeft h, 3)] →
    decodeMode (0x10#8 ||| (BitVec.ofNat 8 h.val <<< 2) ||| BitVec.ofNat 8 d) = m ∧
    ∀ r, s.slotHere = some r →
      exec m s = .next { s with
        slots := s.slots.set s.slotIx (chainPov s.params.overflow s.cfg s.inp.nowMs r)
        povMask := if PovCommits s.cfg s.inp.nowMs r then maskCommitted s.povMask h d r.pinState else s.povMask } ∧
      ((armOf m s.cfg s.inp.nowMs r).committed = true ↔ PovCommits s.cfg s.inp.nowMs r)

/-- R86 (decision D18): a reserved mode byte makes the advance write nothing, and `committed` is 0. -/
def Obligations.ReservedModeWritesNothing : Prop :=
  ∀ (s : State) (b : Byte) (r : Slot), exec (.modeReserved b) s = .next s ∧
    (armOf (.modeReserved b) s.cfg s.inp.nowMs r).committed = false

/-- R87 (decision D22): the triple an advance returns: whether its commit arm executed, and the two fields after it. -/
def Obligations.AdvanceReturnsItsTriple : Prop :=
  ∀ (s : State) (i : Nat) (r : Slot) (m : Instr), s.slots[i]? = some r → s.modeAt i = some m →
    ∃ r' committed, exec m { s with slotIx := i } = .next (advance i s) ∧ (advance i s).slots[i]? = some r' ∧
      r' = chainOf m s.params.overflow s.cfg s.inp.nowMs r ∧
      advanceReturn i s = some (committed, r'.currentState, r'.pressCount) ∧
      (committed = true ↔ r.pending = true ∧ Qualifies m r ∧ debounceOver s.cfg s.inp.nowMs r = true)

/-- R19, R80, R198: what an advance leaves unchanged: every other slot, the sample fields of its own, every mask bit
but the one a POV mode owns, every byte of both bitmaps, and every other part of the state. -/
def Obligations.AdvanceFrame : Prop :=
  ∀ (m : Instr) (s t : State), m.format = .mode8 → exec m s = .next t →
    t = { s with slots := t.slots, povMask := t.povMask } ∧
    t.slots.length = s.slots.length ∧
    (∀ j, j ≠ s.slotIx → t.slots[j]? = s.slots[j]?) ∧
    (∀ r r', s.slots[s.slotIx]? = some r → t.slots[s.slotIx]? = some r' →
      r'.pinState = r.pinState ∧ r'.pinPrevState = r.pinPrevState) ∧
    (povOwner m = none → t.povMask = s.povMask) ∧
    (∀ h d, povOwner m = some (h, d) →
      (∀ g, g ≠ h → t.povMask.get g = s.povMask.get g) ∧
      t.povMask.get h &&& ~~~(weight d) = s.povMask.get h &&& ~~~(weight d)) ∧
    (∀ j, t.outBitmap.read j = s.outBitmap.read j ∧ t.shownBitmap.read j = s.shownBitmap.read j)

/-- R18: `current_state` changes only in a commit arm, or in the auto-release arm of a switch mode, which no open and no
commit precedes. -/
def Obligations.CurrentStateChangesOnlyInCommitOrAutoRelease : Prop :=
  ∀ (m : Instr) (s t : State) (r r' : Slot), m.format = .mode8 → exec m s = .next t →
    s.slotHere = some r → t.slotHere = some r' → r'.currentState ≠ r.currentState →
    (r.pending = true ∧ Qualifies m r ∧ debounceOver s.cfg s.inp.nowMs r = true) ∨
    (SwitchMode m ∧ ¬ (r.pending = false ∧ Qualifies m r) ∧
      ¬ (r.pending = true ∧ Qualifies m r ∧ debounceOver s.cfg s.inp.nowMs r = true) ∧
      holdOver s.cfg s.inp.nowMs r = true ∧ r'.currentState = false)

/-- R13, R15, R16, R17: who writes the other dynamic fields of a slot record. `time_last` takes `now_ms` in an open arm
and is never written otherwise, `pending` is set by an open arm only, `press_count` is written by a commit arm only, and
`prev_state` by a commit arm, TOGGLE's release or the auto-release of TOGGLE_SWITCH_ON and TOGGLE_SWITCH_OFF. -/
def Obligations.DynamicFieldsHaveTheirWriters : Prop :=
  ∀ (m : Instr) (s t : State) (r r' : Slot), m.format = .mode8 → exec m s = .next t →
    s.slotHere = some r → t.slotHere = some r' →
    (r.pending = false ∧ Qualifies m r →
      r' = { r with timeLast := s.inp.nowMs, pending := true }) ∧
    (¬ (r.pending = false ∧ Qualifies m r) → r'.timeLast = r.timeLast ∧ (r'.pending = true → r.pending = true)) ∧
    (r'.pressCount ≠ r.pressCount → r.pending = true ∧ Qualifies m r ∧ debounceOver s.cfg s.inp.nowMs r = true) ∧
    (r'.prevState ≠ r.prevState →
      (r.pending = true ∧ Qualifies m r ∧ debounceOver s.cfg s.inp.nowMs r = true) ∨
      (m = .toggle ∧ r.pinState = false ∧ debounceOver s.cfg s.inp.nowMs r = true) ∨
      ((m = .toggleSwitchOn ∨ m = .toggleSwitchOff) ∧ holdOver s.cfg s.inp.nowMs r = true))

/-- R90 (b), (d): while a window is open and the debounce time has not passed, NORMAL, INVERTED, TOGGLE and the POV
modes ignore the sample; a window opened with `debounce_ms` = 0xFFFFFFFF is never closed by them. -/
def Obligations.OpenWindowIgnoresTheSample : Prop :=
  ∀ (m : Instr) (s : State) (r : Slot), m.format = .mode8 → ¬ SwitchMode m → s.slotHere = some r →
    r.pending = true → debounceOver s.cfg s.inp.nowMs r = false ∨ s.cfg.debounceMs = 0xFFFFFFFF#32 →
    exec m s = .next s

/-- R103: for NORMAL and INVERTED a clean rising edge of the effective sample, held past `debounce_ms`, commits exactly
one increment of `press_count` and sets `current_state`. The pin is held at the level whose effective sample is 1, from
the cycle at `t0` on and for every later cycle of any list of times, one of which is past `debounce_ms` after `t0`. -/
def Obligations.CleanPressCommitsOnce : Prop :=
  ∀ (m : Instr) (s : State) (r : Slot) (t0 : U32) (times : List U32) (level : Bool),
    (m = .normal ∧ level = true) ∨ (m = .inverted ∧ level = false) → s.slotHere = some r →
    r.pending = false → r.prevState = false →
    (∃ t ∈ times, s.cfg.debounceMs.toNat < elapsedMs t t0) →
    ∃ q, (heldAt m level (t0 :: times) s).slotHere = some q ∧ q.currentState = true ∧ q.prevState = true ∧
      q.pending = false ∧ q.pressCount = countPlus s.params.overflow r.pressCount true

/-- R115: for TOGGLE two clean rising-edge-then-release cycles flip `current_state` exactly twice and count exactly
twice. Each press is held high over any list of times that reaches past `debounce_ms` after its first one, the pin is
low over any list of times between the presses that reaches past `debounce_ms` after the first press, and low over any
list of times after the second. -/
def Obligations.TwoTogglePressesFlipTwice : Prop :=
  ∀ (s : State) (r : Slot) (t0 t1 : U32) (high0 low0 high1 low1 : List U32) (a b c : State), s.slotHere = some r →
    r.pending = false → r.prevState = false →
    (∃ t ∈ high0, s.cfg.debounceMs.toNat < elapsedMs t t0) → (∃ t ∈ low0, s.cfg.debounceMs.toNat < elapsedMs t t0) →
    (∃ t ∈ high1, s.cfg.debounceMs.toNat < elapsedMs t t1) →
    a = heldAt .toggle true (t0 :: high0) s → b = heldAt .toggle true (t1 :: high1) (heldAt .toggle false low0 a) →
    c = heldAt .toggle false low1 b →
    ∃ p q u, a.slotHere = some p ∧ p.currentState = !r.currentState ∧
      p.pressCount = countPlus s.params.overflow r.pressCount true ∧
      b.slotHere = some q ∧ q.currentState = r.currentState ∧
      q.pressCount = countPlus s.params.overflow p.pressCount true ∧
      c.slotHere = some u ∧ u.currentState = q.currentState ∧ u.pressCount = q.pressCount

/-- R130: in the three switch modes `current_state` is 0 after every advance later than `hold_release_ms` after
`time_last` in which neither the open nor the commit arm executes, with the pin as it may be. -/
def Obligations.SwitchPulseEndsByItself : Prop :=
  ∀ (m : Instr) (s : State) (r : Slot), SwitchMode m → s.slotHere = some r → holdOver s.cfg s.inp.nowMs r = true →
    ¬ (r.pending = false ∧ Qualifies m r) →
    ¬ (r.pending = true ∧ Qualifies m r ∧ debounceOver s.cfg s.inp.nowMs r = true) →
    ∃ t r', exec m s = .next t ∧ t.slotHere = some r' ∧ r'.currentState = false ∧ r'.pending = false ∧
      r'.pressCount = r.pressCount

/-- R125 (a), (b): when both comparators are true in the commit cycle the commit has priority; with the hold time over
and the debounce time not, the auto-release closes the window without a commit (R232). -/
def Obligations.HoldBelowDebounceKillsTheWindow : Prop :=
  ∀ (m : Instr) (s : State) (r : Slot), SwitchMode m → s.slotHere = some r → r.pending = true →
    (Qualifies m r → debounceOver s.cfg s.inp.nowMs r = true → ∃ t r', exec m s = .next t ∧ t.slotHere = some r' ∧
      r'.currentState = true ∧ r'.pressCount = countPlus s.params.overflow r.pressCount true) ∧
    (holdOver s.cfg s.inp.nowMs r = true → debounceOver s.cfg s.inp.nowMs r = false → ∃ t r', exec m s = .next t ∧
      t.slotHere = some r' ∧ r'.pending = false ∧ r'.currentState = false ∧ r'.pressCount = r.pressCount)

/-- R91, second sentence: a window at whose expiry the qualifying condition is false never counts a press, and it never
changes `current_state` unless the hold time of a switch mode's pulse is over; the window is closed. -/
def Obligations.GlitchNeverCounts : Prop :=
  ∀ (m : Instr) (s : State) (r : Slot), m.format = .mode8 → (∀ b, m ≠ .modeReserved b) → s.slotHere = some r →
    r.pending = true → ¬ Qualifies m r → debounceOver s.cfg s.inp.nowMs r = true →
    ∃ t r', exec m s = .next t ∧ t.slotHere = some r' ∧ r'.pending = false ∧ r'.pressCount = r.pressCount ∧
      (¬ SwitchMode m ∨ holdOver s.cfg s.inp.nowMs r = false ∨ r.currentState = false →
        r'.currentState = r.currentState) ∧ t.povMask = s.povMask

/-- R91, first sentence, as 90_conflicts.md C5 reads it: a settled slot stays settled whatever the clock says, with
`current_state`, `press_count` and every mask unchanged. -/
def Obligations.SettledSlotStaysSettled : Prop :=
  ∀ (m : Instr) (s : State) (r : Slot), m.format = .mode8 → s.slotHere = some r → Settled m r →
    ∃ t r', exec m s = .next t ∧ t.slotHere = some r' ∧ Settled m r' ∧ r'.currentState = r.currentState ∧
      r'.pressCount = r.pressCount ∧ t.povMask = s.povMask

/-! ### Pins and steps 1 to 5 (30_encoding.md R66, R67; 46_scan_orchestrator.md) -/

/-- R66, R67 (decision D6): an unused pin and a pin with a reserved role byte produce no slot. -/
def Obligations.UnusedAndReservedRolesProduceNoSlot : Prop :=
  ∀ (s : State) (b : Byte), exec .unused s = .next s ∧ exec (.roleReserved b) s = .next s

/-- R167 (decision D15 for the polarity): a ground-referenced pin is active low, a supply-referenced one active high,
and each takes one slot while there is room. -/
def Obligations.DirectPinsTakeASlot : Prop :=
  ∀ s : State,
    (s.k < s.params.N →
      exec .btnGnd s = .next { s with sample := s.sample.set s.k (!(s.pinLevel s.pinIx)), k := s.k + 1 } ∧
      exec .btnVcc s = .next { s with sample := s.sample.set s.k (s.pinLevel s.pinIx), k := s.k + 1 }) ∧
    (s.params.N ≤ s.k → exec .btnGnd s = .next s ∧ exec .btnVcc s = .next s) ∧
    (∀ v, s.inp.pin[s.pinIx]? = some v → s.pinLevel s.pinIx = v)

/-- R163 (decision D14 for the polarity), R178: a row is sampled against the column that is driven, low being active;
with no column driven no row is sampled (log 11). -/
def Obligations.RowSamplesTheDrivenColumn : Prop :=
  ∀ s : State,
    (s.columnDrive = none → exec .row s = .next s) ∧
    (∀ c, s.columnDrive = some c → s.params.N ≤ s.k → exec .row s = .next s) ∧
    (∀ c levels v, s.columnDrive = some c → s.k < s.params.N →
      s.inp.matrix[(s.pinsBelow .column c).length]? = some levels →
      levels[(s.pinsBelow .row s.pinIx).length]? = some v →
      exec .row s = .next { s with sample := s.sample.set s.k (!v), k := s.k + 1 }) ∧
    (∀ c, s.columnDrive = some c → s.k < s.params.N →
      ∃ v, exec .row s = .next { s with sample := s.sample.set s.k v, k := s.k + 1 })

/-- R163, R178 (decision D14): a column samples every row in ascending pin order and is released at the end, so after
it no column is driven; nothing but the cursor and the staging array changes otherwise. -/
def Obligations.ColumnSamplesEveryRow : Prop :=
  ∀ s : State, s.k ≤ s.params.N → s.sample.length = s.params.N →
    ∃ t, exec .column s = .next t ∧
      Assigned ((List.range (s.pinCount .row)).map fun r => !(s.matrixLevel (s.pinsBelow .column s.pinIx).length r))
        s t ∧
      t = { s with sample := t.sample, k := t.k, columnDrive := none }

/-- R163, R178 (decision D14): step 1 assigns one slot per (column, row) pair, column-major in ascending pin order, up
to N, and leaves no column driven. -/
def Obligations.ScanMatrixAssignsColumnMajor : Prop :=
  ∀ s : State, s.k ≤ s.params.N → s.sample.length = s.params.N → s.columnDrive = none →
    ∃ t, exec .scanMatrix s = .next t ∧ Assigned (matrixSamples s) s t ∧
      t = { s with sample := t.sample, k := t.k, pinIx := 0 }

/-- R164: step 2 appends one slot per shift-register bit, in ascending order and without polarity correction. -/
def Obligations.AppendShiftregAppendsEveryBit : Prop :=
  ∀ s : State, s.k ≤ s.params.N → s.sample.length = s.params.N →
    ∃ t, exec .appendShiftreg s = .next t ∧ Assigned ((List.range s.cfg.srCount).map s.srLevel) s t ∧
      t = { s with sample := t.sample, k := t.k } ∧ (∀ b v, s.inp.sr[b]? = some v → s.srLevel b = v)

/-- R166: step 3 appends one slot per axis boolean. -/
def Obligations.AppendAxisAppendsEveryBit : Prop :=
  ∀ s : State, s.k ≤ s.params.N → s.sample.length = s.params.N →
    ∃ t, exec .appendAxis s = .next t ∧ Assigned ((List.range s.cfg.axisCount).map s.axLevel) s t ∧
      t = { s with sample := t.sample, k := t.k } ∧ (∀ a v, s.inp.ax[a]? = some v → s.axLevel a = v)

/-- R167 (decision D15 for the polarity): step 4 appends the direct buttons in ascending pin order and then latches
`slot_count`. -/
def Obligations.AppendDirectAppendsEveryButton : Prop :=
  ∀ s : State, s.k ≤ s.params.N → s.sample.length = s.params.N →
    ∃ t, exec .appendDirect s = .next t ∧ Assigned (directSamples s) s t ∧
      t = { s with sample := t.sample, k := t.k, slotCount := t.k, pinIx := 0 }

/-- R168: once `k` = N every further input of steps 1 to 4 is dropped: no sample and no cursor change, and nothing
records it. -/
def Obligations.FullTableDropsInputs : Prop :=
  ∀ s : State, s.params.N ≤ s.k → s.columnDrive = none → s.pinIx = 0 →
    exec .scanMatrix s = .next s ∧ exec .appendShiftreg s = .next s ∧ exec .appendAxis s = .next s ∧
    exec .appendDirect s = .next { s with slotCount := s.k }

/-- R169 (decision D16): step 5 replaces the sample of every assigned slot that has an encoder value, and nothing
else. -/
def Obligations.MergeEncoderReplacesSamples : Prop :=
  ∀ s : State, s.slotCount ≤ s.sample.length →
    ∃ t, exec .mergeEncoder s = .next t ∧
      (∀ i v, i < s.slotCount → s.encAt i = some v → t.sample[i]? = some v) ∧
      (∀ i, s.encAt i = none ∨ s.slotCount ≤ i → t.sample[i]? = s.sample[i]?) ∧
      t = { s with sample := t.sample } ∧ t.sample.length = s.sample.length

/-- Step 1, step 4 and a column read the role byte of every pin in ascending order and execute the decoded instruction
of the pins they look for (R66, R163, R167; decisions D6, D14, D15). -/
def Obligations.WalksExecuteTheDecodedRoles : Prop :=
  ∀ s : State,
    exec .scanMatrix s = .next { (List.range s.params.P).foldl (pinVisit .column) s with pinIx := 0 } ∧
    exec .column s = .next { (List.range s.params.P).foldl (pinVisit .row)
      { s with columnDrive := some s.pinIx } with columnDrive := none, pinIx := s.pinIx } ∧
    (∃ t, t = (List.range s.params.P).foldl buttonVisit s ∧
      exec .appendDirect s = .next { t with pinIx := 0, slotCount := t.k })

/-! ### Steps 6 to 8 -/

/-- R172, R80: step 6 decodes the mode byte of every assigned slot in ascending order and executes the instruction on
that slot, all with the same inputs. How the model hands the slot over, the walk index, is log 7, and a slot without a
loaded mode byte is log 12. -/
def Obligations.AdvanceAllExecutesTheDecodedModes : Prop :=
  ∀ s : State, exec .advanceAll s = .next { (List.range s.slotCount).foldl modeVisit s with slotIx := 0 }

/-- R172: the advances of different slots touch disjoint records, so step 6 is the mode's chain on every assigned slot
and leaves the others, the masks take the commits of the POV slots in ascending slot order (R144), and every other part
of the state is unchanged but for the walk index (log 7). That an assigned slot without a loaded mode byte is left alone
is the model's choice (log 12). -/
def Obligations.AdvanceAllAdvancesEverySlot : Prop :=
  ∀ s : State, ∃ t, exec .advanceAll s = .next t ∧
    (∀ i r m, i < s.slotCount → s.slots[i]? = some r → s.modeAt i = some m →
      t.slots[i]? = some (chainOf m s.params.overflow s.cfg s.inp.nowMs r)) ∧
    (∀ i, s.slotCount ≤ i ∨ s.modeAt i = none → t.slots[i]? = s.slots[i]?) ∧
    t.povMask = (List.range s.slotCount).foldl (maskCommitAt s) s.povMask ∧
    t = { s with slots := t.slots, povMask := t.povMask, slotIx := 0 }

/-- R150, R151, R153: the direction code of every mask, by the table of the rule: eight valid combinations, and 0xFF for
the centred mask and for the seven invalid ones. RESOLVE has no encoding of its own, and step 7 executes it once for
each hat, unconditionally; the walk index that names the hat is the model's (log 7, log 23). -/
def Obligations.ResolveIsTheTable : Prop :=
  encode .resolve = [] ∧
  (∀ s : State, exec .resolvePov s = .next { [(0 : Hat), 1, 2, 3].foldl
    (fun t h => answerOr t (exec .resolve { t with hatIx := h })) s with hatIx := 0 }) ∧
  resolveMask 0b0000 = 0xFF ∧ resolveMask 0b0001 = 0x06 ∧ resolveMask 0b0010 = 0x04 ∧ resolveMask 0b0011 = 0x05 ∧
  resolveMask 0b0100 = 0x02 ∧ resolveMask 0b0101 = 0xFF ∧ resolveMask 0b0110 = 0x03 ∧ resolveMask 0b0111 = 0xFF ∧
  resolveMask 0b1000 = 0x00 ∧ resolveMask 0b1001 = 0x07 ∧ resolveMask 0b1010 = 0xFF ∧ resolveMask 0b1011 = 0xFF ∧
  resolveMask 0b1100 = 0x01 ∧ resolveMask 0b1101 = 0xFF ∧ resolveMask 0b1110 = 0xFF ∧ resolveMask 0b1111 = 0xFF

/-- R175: step 7 writes the code of each of the four hats from that hat's mask; no mask is written (R173) and nothing
else changes (the walk index is the model's, log 7). -/
def Obligations.ResolveWritesTheCodes : Prop :=
  ∀ s : State, exec .resolvePov s = .next { s with
    povCode := ⟨resolveMask s.povMask.h0, resolveMask s.povMask.h1, resolveMask s.povMask.h2,
      resolveMask s.povMask.h3⟩
    hatIx := 0 }

/-- R41, R176: step 8 rebuilds the bitmap from scratch: bit `i mod 8` of byte `i div 8` is `current_state` of slot `i`
for every assigned slot and 0 for every other index, whatever the bitmap held; nothing else changes. -/
def Obligations.RebuildBitmapPacksEverySlot : Prop :=
  ∀ s : State, s.slotCount ≤ s.slots.length →
    ∃ t, exec .rebuildBitmap s = .next t ∧
      (∀ i r, i < s.slotCount → s.slots[i]? = some r →
        (t.outBitmap.read (i / 8)).getLsbD (i % 8) = r.currentState) ∧
      (∀ i, s.slotCount ≤ i → (t.outBitmap.read (i / 8)).getLsbD (i % 8) = false) ∧
      t = { s with outBitmap := t.outBitmap }

/-! ### The whole machine -/

/-- Every step keeps the invariant of the machine: lengths, the cursor and count bounds, no column driven between
steps, canonical bitmaps inside their range with pad bits 0 (R43), legal direction codes (R65), and at rest a snapshot
that is the last completed cycle's (R46). -/
def Obligations.StepKeepsTheMachineInvariant : Prop :=
  ∀ s t : State, MachineInv s → step s = .next t → MachineInv t

/-- Every step keeps what the modes keep of their records, masks and bitmap bits: R32 (a) to (d), R112, R143, R144. -/
def Obligations.StepKeepsTheModeInvariant : Prop :=
  ∀ s t : State, MachineInv s → ModeInv s → step s = .next t → ModeInv t

/-- Every step keeps R28 (`slot_count` is the same in every cycle, `min(N, cols × rows + sr_count + axis_count +
direct)`) and U13 (a slot the configuration never assigns keeps its reset values for ever). -/
def Obligations.StepKeepsTheAssignmentInvariant : Prop :=
  ∀ s t : State, MachineInv s → AssignInv s → step s = .next t → AssignInv t

/-- The reset state meets the three invariants, for every legal choice of parameters and configuration and every
schedule of requests, and so does the reset state that log 2 and log 3 name. -/
def Obligations.ResetMeetsTheInvariants : Prop :=
  (∀ p c requests, p.wf = true → c.wf p = true →
    MachineInv (State.resetOf p c requests) ∧ ModeInv (State.resetOf p c requests) ∧
    AssignInv (State.resetOf p c requests)) ∧
  MachineInv State.reset ∧ ModeInv State.reset ∧ AssignInv State.reset

/-- R31, R220 (decisions D3, D28): what reset leaves: every slot record zero, masks zero, codes 0xFF, every bitmap byte
zero, `slot_count` 0, not busy, no column driven; the configuration is not touched (R221). That the reporting layer's
snapshot holds the reset outputs is DEDUCED from R46 (log 10), and that power-on keeps the model's counter of accepted
cycles (log 6) and has the same effect inside a cycle (log 27) are the model's choices. -/
def Obligations.ResetLeavesTheSpecValues : Prop :=
  ∀ (p : Params) (c : Configuration) (requests : List CycleInput) (s : State), s = State.resetOf p c requests →
    s.slots.length = p.N ∧
    (∀ (i : Nat) r, s.slots[i]? = some r → r.pinState = false ∧ r.pinPrevState = false ∧ r.prevState = false ∧
      r.currentState = false ∧ r.pending = false ∧ r.timeLast = 0 ∧ r.pressCount = 0) ∧
    (∀ h, s.povMask.get h = 0 ∧ s.povCode.get h = 0xFF ∧ s.shownCode.get h = 0xFF) ∧
    (∀ j, s.outBitmap.read j = 0 ∧ s.shownBitmap.read j = 0) ∧
    s.slotCount = 0 ∧ s.busy = false ∧ s.columnDrive = none ∧ s.cfg = c ∧ s.params = p ∧
    (∀ u : State, u.params = p → u.cfg = c → u.stimulus = requests → u.powerOn = { s with cycles := u.cycles })

/-- R51 (decision D25), R19, R52: no step changes the configuration or the parameters, and within a cycle no step
changes the inputs of the cycle. -/
def Obligations.ConfigurationAndInputsAreFixed : Prop :=
  ∀ s t : State, step s = .next t →
    t.cfg = s.cfg ∧ t.params = s.params ∧ (s.seq ≠ .idle → t.inp = s.inp ∧ t.stimulus = s.stimulus)

/-- R46, R50: what the reporting layer reads changes only in the step that ends a cycle, and then it is that cycle's
`out_bitmap` and `pov_code`, all at once. -/
def Obligations.OutputsChangeOnlyAtTheEndOfACycle : Prop :=
  ∀ s t : State, step s = .next t →
    (s.seq ≠ .rebuildBitmap → t.readOutputs = s.readOutputs) ∧
    (s.seq = .rebuildBitmap → t.shownBitmap = t.outBitmap ∧ t.shownCode = t.povCode ∧
      t.readOutputs = { bitmap := (List.range t.params.bmBytes).map t.outBitmap.read, codes := t.povCode })

/-- R198: the ownership table over steps: the dynamic fields of slots and the masks change in step 6 only, the sample
fields in the latch only, `pov_code` in step 7 only, `out_bitmap` in step 8 only (every byte), `slot_count` in step 4
only, `sample[]` in steps 1 to 5 only, `k` in steps 1 to 4 and at the acceptance of a request only (R27), the column
drive in step 1 only, the reporting layer's snapshot after step 8 only, and the configuration in no step. -/
def Obligations.EveryFieldHasItsOneWriter : Prop :=
  ∀ s t : State, step s = .next t →
    (s.seq ≠ .latch → s.seq ≠ .advanceAll → t.slots = s.slots) ∧
    (s.seq = .latch → ∀ (i : Nat) r r', s.slots[i]? = some r → t.slots[i]? = some r' →
      r' = { r with pinState := r'.pinState, pinPrevState := r'.pinPrevState }) ∧
    (s.seq = .advanceAll → ∀ (i : Nat) r r', s.slots[i]? = some r → t.slots[i]? = some r' →
      r'.pinState = r.pinState ∧ r'.pinPrevState = r.pinPrevState) ∧
    (s.seq ≠ .advanceAll → t.povMask = s.povMask) ∧
    (s.seq ≠ .resolvePov → t.povCode = s.povCode) ∧
    (s.seq ≠ .rebuildBitmap → ∀ j, t.outBitmap.read j = s.outBitmap.read j) ∧
    (s.seq ≠ .appendDirect → t.slotCount = s.slotCount) ∧
    (s.seq ∈ [SeqPos.idle, .latch, .advanceAll, .resolvePov, .rebuildBitmap] → t.sample = s.sample) ∧
    (s.seq ∈ [SeqPos.mergeEncoder, .latch, .advanceAll, .resolvePov, .rebuildBitmap] → t.k = s.k) ∧
    (s.seq = .idle → t = s ∨ t.k = 0) ∧
    (s.seq ≠ .scanMatrix → t.columnDrive = s.columnDrive) ∧
    (s.seq ≠ .rebuildBitmap → t.shownBitmap = s.shownBitmap ∧ t.shownCode = s.shownCode) ∧
    t.cfg = s.cfg

/-- R161, R162, R181: ten steps of the model (log 1) from rest with a request pending run exactly one scan cycle and
come back to rest: the
slots are those of the closed form (samples in the order of R170 with the encoder's merged, latched, each advanced by
its mode), the masks take the commits in ascending slot order, the codes are `resolve` of the masks, the bitmap holds
`current_state` of every assigned slot, and the snapshot is the bitmap and the codes of this cycle. -/
def Obligations.TenStepsRunOneScanCycle : Prop :=
  ∀ (s : State) (x : CycleInput) (later : List CycleInput) (c : State), MachineInv s → s.seq = .idle →
    s.stimulus = x :: later → c = { s with stimulus := later, inp := x, cycles := s.cycles + 1 } →
    ∃ t, Host.Core.run Sys2Proof.core 10 s = .next t ∧ t.seq = .idle ∧ t.stimulus = later ∧
      t.slotCount = assignedCount c ∧ (assignedSamples c).length = assignedCount c ∧
      t.slots.length = s.slots.length ∧
      (∀ (i : Nat) r, s.slots[i]? = some r → t.slots[i]? = some (slotAfter c i r)) ∧
      t.povMask = masksAfter c ∧
      (∀ h, t.povCode.get h = resolveMask (t.povMask.get h)) ∧
      (∀ (i : Nat) r, t.slots[i]? = some r → t.outBitmap.bit i = (decide (i < assignedCount c) && r.currentState)) ∧
      t.shownBitmap = t.outBitmap ∧ t.shownCode = t.povCode ∧ t.cfg = s.cfg ∧ t.params = s.params

/-- R91, third sentence, R180: from rest, a scan cycle (ten steps of the model, log 1) that finds every assigned slot
settled on the sample it latches leaves `current_state`, `press_count`, every mask and every direction code as they were
and every slot settled again, so repeating it with the same inputs never changes them. Where `out_bitmap` shows the
slots, as it does after any cycle, the bitmap and what the reporting layer reads are unchanged too. -/
def Obligations.SettledCycleIsIdempotent : Prop :=
  ∀ (s : State) (x : CycleInput) (later : List CycleInput) (c : State), MachineInv s → s.seq = .idle →
    s.stimulus = x :: later → c = { s with stimulus := later, inp := x, cycles := s.cycles + 1 } →
    (∀ (i : Nat) r m, i < assignedCount c → s.slots[i]? = some r → s.modeAt i = some m →
      Settled m (latched c i r)) →
    ∃ t, Host.Core.run Sys2Proof.core 10 s = .next t ∧ t.povMask = s.povMask ∧ t.povCode = s.povCode ∧
      (∀ (i : Nat) r, s.slots[i]? = some r → ∃ r', t.slots[i]? = some r' ∧ r'.currentState = r.currentState ∧
        r'.pressCount = r.pressCount ∧
        (∀ m, i < assignedCount c → s.modeAt i = some m → Settled m r' ∧ Settled m (latched c i r'))) ∧
      BitmapShows t (assignedCount c) ∧
      (BitmapShows s (assignedCount c) → t.outBitmap = s.outBitmap ∧ t.readOutputs = s.readOutputs)

/-! ### The model's own choices, stated apart from the rules they stand beside -/

/-- The model's choice (log 7): an advance in any mode, executed where the walk index names no slot record, writes
nothing. The spec has no such advance, and no run reaches one. -/
def Obligations.AdvanceWithoutASlotWritesNothing : Prop :=
  ∀ (m : Instr) (s : State), m.format = .mode8 → s.slotHere = none → exec m s = .next s

/-- The model's choice (log 23): RESOLVE as an instruction takes the mask of the hat at the walk index and writes that
hat's code, which is what step 7 does with the pure function of R150 for each hat (R152, R175); every other hat's code
and everything else are unchanged. -/
def Obligations.ResolveWritesItsHatsCode : Prop :=
  ∀ s : State, ∃ t, exec .resolve s = .next t ∧
    t.povCode.get s.hatIx = resolveMask (s.povMask.get s.hatIx) ∧
    (∀ g, g ≠ s.hatIx → t.povCode.get g = s.povCode.get g) ∧ t = { s with povCode := t.povCode }

/-- The model's choice (log 13) of how `out_bitmap` is held: a write of one byte reads back, leaves every other byte and
keeps the canonical form, canonical memories that read alike are equal, and step 8 leaves a canonical memory whatever
the bitmap held before. -/
def Obligations.BitmapKeepsItsCanonicalForm : Prop :=
  (∀ (m : Memory) (j : Nat) (v : Byte), m.wf = true →
    (m.write j v).wf = true ∧ ∀ a, (m.write j v).read a = if a = j then v else m.read a) ∧
  (∀ m n : Memory, m.wf = true → n.wf = true → (∀ a, m.read a = n.read a) → m = n) ∧
  (∀ s t : State, exec .rebuildBitmap s = .next t → t.outBitmap.wf = true)
end

