-- ==== Sys2Proof/Laws/State.lean ====
section
/-! SUPPORT. One lemma per field per update of the state, so that no later proof unfolds a record update. -/

namespace Sys2Proof.Machine

/-! ### Hat registers -/

@[simp] theorem Hats.get_set_same {α : Type} (t : Hats α) (h : Hat) (v : α) : (t.set h v).get h = v := by
  fin_cases h <;> rfl

theorem Hats.get_set_other {α : Type} (t : Hats α) {g h : Hat} (v : α) (ne : g ≠ h) :
    (t.set h v).get g = t.get g := by
  fin_cases g <;> fin_cases h <;> first | rfl | exact absurd rfl ne

theorem Hats.get_set {α : Type} (t : Hats α) (g h : Hat) (v : α) :
    (t.set h v).get g = if g = h then v else t.get g := by
  split
  · next e => subst e; simp
  · next ne => exact Hats.get_set_other t v ne

/-- Two hat registers with the same elements are equal. -/
theorem Hats.ext_get {α : Type} {t u : Hats α} (h : ∀ g : Hat, t.get g = u.get g) : t = u := by
  cases t; cases u
  have e0 := h 0; have e1 := h 1; have e2 := h 2; have e3 := h 3
  simp only [Hats.get] at e0 e1 e2 e3
  simp [*]

/-! ### `State.onSlot` -/

@[simp] theorem State.onSlot_params (f : Slot → Slot) (s : State) : (s.onSlot f).params = s.params := rfl

@[simp] theorem State.onSlot_cfg (f : Slot → Slot) (s : State) : (s.onSlot f).cfg = s.cfg := rfl

@[simp] theorem State.onSlot_slots (f : Slot → Slot) (s : State) : (s.onSlot f).slots = s.slots.modify s.slotIx f := rfl

@[simp] theorem State.onSlot_povMask (f : Slot → Slot) (s : State) : (s.onSlot f).povMask = s.povMask := rfl

@[simp] theorem State.onSlot_povCode (f : Slot → Slot) (s : State) : (s.onSlot f).povCode = s.povCode := rfl

@[simp] theorem State.onSlot_outBitmap (f : Slot → Slot) (s : State) : (s.onSlot f).outBitmap = s.outBitmap := rfl

@[simp] theorem State.onSlot_slotCount (f : Slot → Slot) (s : State) : (s.onSlot f).slotCount = s.slotCount := rfl

@[simp] theorem State.onSlot_seq (f : Slot → Slot) (s : State) : (s.onSlot f).seq = s.seq := rfl

@[simp] theorem State.onSlot_k (f : Slot → Slot) (s : State) : (s.onSlot f).k = s.k := rfl

@[simp] theorem State.onSlot_sample (f : Slot → Slot) (s : State) : (s.onSlot f).sample = s.sample := rfl

@[simp] theorem State.onSlot_columnDrive (f : Slot → Slot) (s : State) : (s.onSlot f).columnDrive = s.columnDrive := rfl

@[simp] theorem State.onSlot_shownBitmap (f : Slot → Slot) (s : State) : (s.onSlot f).shownBitmap = s.shownBitmap := rfl

@[simp] theorem State.onSlot_shownCode (f : Slot → Slot) (s : State) : (s.onSlot f).shownCode = s.shownCode := rfl

@[simp] theorem State.onSlot_slotIx (f : Slot → Slot) (s : State) : (s.onSlot f).slotIx = s.slotIx := rfl

@[simp] theorem State.onSlot_pinIx (f : Slot → Slot) (s : State) : (s.onSlot f).pinIx = s.pinIx := rfl

@[simp] theorem State.onSlot_hatIx (f : Slot → Slot) (s : State) : (s.onSlot f).hatIx = s.hatIx := rfl

@[simp] theorem State.onSlot_inp (f : Slot → Slot) (s : State) : (s.onSlot f).inp = s.inp := rfl

@[simp] theorem State.onSlot_stimulus (f : Slot → Slot) (s : State) : (s.onSlot f).stimulus = s.stimulus := rfl

@[simp] theorem State.onSlot_cycles (f : Slot → Slot) (s : State) : (s.onSlot f).cycles = s.cycles := rfl

/-! ### `State.publish` -/

@[simp] theorem State.publish_params (s : State) : (s.publish).params = s.params := rfl

@[simp] theorem State.publish_cfg (s : State) : (s.publish).cfg = s.cfg := rfl

@[simp] theorem State.publish_slots (s : State) : (s.publish).slots = s.slots := rfl

@[simp] theorem State.publish_povMask (s : State) : (s.publish).povMask = s.povMask := rfl

@[simp] theorem State.publish_povCode (s : State) : (s.publish).povCode = s.povCode := rfl

@[simp] theorem State.publish_outBitmap (s : State) : (s.publish).outBitmap = s.outBitmap := rfl

@[simp] theorem State.publish_slotCount (s : State) : (s.publish).slotCount = s.slotCount := rfl

@[simp] theorem State.publish_seq (s : State) : (s.publish).seq = s.seq := rfl

@[simp] theorem State.publish_k (s : State) : (s.publish).k = s.k := rfl

@[simp] theorem State.publish_sample (s : State) : (s.publish).sample = s.sample := rfl

@[simp] theorem State.publish_columnDrive (s : State) : (s.publish).columnDrive = s.columnDrive := rfl

@[simp] theorem State.publish_shownBitmap (s : State) : (s.publish).shownBitmap = s.outBitmap := rfl

@[simp] theorem State.publish_shownCode (s : State) : (s.publish).shownCode = s.povCode := rfl

@[simp] theorem State.publish_slotIx (s : State) : (s.publish).slotIx = s.slotIx := rfl

@[simp] theorem State.publish_pinIx (s : State) : (s.publish).pinIx = s.pinIx := rfl

@[simp] theorem State.publish_hatIx (s : State) : (s.publish).hatIx = s.hatIx := rfl

@[simp] theorem State.publish_inp (s : State) : (s.publish).inp = s.inp := rfl

@[simp] theorem State.publish_stimulus (s : State) : (s.publish).stimulus = s.stimulus := rfl

@[simp] theorem State.publish_cycles (s : State) : (s.publish).cycles = s.cycles := rfl

/-! ### `State.accept` -/

@[simp] theorem State.accept_params (x : CycleInput) (s : State) : (s.accept x).params = s.params := rfl

@[simp] theorem State.accept_cfg (x : CycleInput) (s : State) : (s.accept x).cfg = s.cfg := rfl

@[simp] theorem State.accept_slots (x : CycleInput) (s : State) : (s.accept x).slots = s.slots := rfl

@[simp] theorem State.accept_povMask (x : CycleInput) (s : State) : (s.accept x).povMask = s.povMask := rfl

@[simp] theorem State.accept_povCode (x : CycleInput) (s : State) : (s.accept x).povCode = s.povCode := rfl

@[simp] theorem State.accept_outBitmap (x : CycleInput) (s : State) : (s.accept x).outBitmap = s.outBitmap := rfl

@[simp] theorem State.accept_slotCount (x : CycleInput) (s : State) : (s.accept x).slotCount = s.slotCount := rfl

@[simp] theorem State.accept_seq (x : CycleInput) (s : State) : (s.accept x).seq = .scanMatrix := rfl

@[simp] theorem State.accept_k (x : CycleInput) (s : State) : (s.accept x).k = 0 := rfl

@[simp] theorem State.accept_sample (x : CycleInput) (s : State) : (s.accept x).sample = s.sample := rfl

@[simp] theorem State.accept_columnDrive (x : CycleInput) (s : State) : (s.accept x).columnDrive = s.columnDrive := rfl

@[simp] theorem State.accept_shownBitmap (x : CycleInput) (s : State) : (s.accept x).shownBitmap = s.shownBitmap := rfl

@[simp] theorem State.accept_shownCode (x : CycleInput) (s : State) : (s.accept x).shownCode = s.shownCode := rfl

@[simp] theorem State.accept_slotIx (x : CycleInput) (s : State) : (s.accept x).slotIx = s.slotIx := rfl

@[simp] theorem State.accept_pinIx (x : CycleInput) (s : State) : (s.accept x).pinIx = s.pinIx := rfl

@[simp] theorem State.accept_hatIx (x : CycleInput) (s : State) : (s.accept x).hatIx = s.hatIx := rfl

@[simp] theorem State.accept_inp (x : CycleInput) (s : State) : (s.accept x).inp = x := rfl

@[simp] theorem State.accept_stimulus (x : CycleInput) (s : State) : (s.accept x).stimulus = s.stimulus := rfl

@[simp] theorem State.accept_cycles (x : CycleInput) (s : State) : (s.accept x).cycles = s.cycles + 1 := rfl

/-! ### `State.loadConfiguration` -/

@[simp] theorem State.loadConfiguration_params (c : Configuration) (s : State) : (s.loadConfiguration c).params = s.params := rfl

@[simp] theorem State.loadConfiguration_cfg (c : Configuration) (s : State) : (s.loadConfiguration c).cfg = c := rfl

@[simp] theorem State.loadConfiguration_slots (c : Configuration) (s : State) : (s.loadConfiguration c).slots = s.slots := rfl

@[simp] theorem State.loadConfiguration_povMask (c : Configuration) (s : State) : (s.loadConfiguration c).povMask = s.povMask := rfl

@[simp] theorem State.loadConfiguration_povCode (c : Configuration) (s : State) : (s.loadConfiguration c).povCode = s.povCode := rfl

@[simp] theorem State.loadConfiguration_outBitmap (c : Configuration) (s : State) : (s.loadConfiguration c).outBitmap = s.outBitmap := rfl

@[simp] theorem State.loadConfiguration_slotCount (c : Configuration) (s : State) : (s.loadConfiguration c).slotCount = s.slotCount := rfl

@[simp] theorem State.loadConfiguration_seq (c : Configuration) (s : State) : (s.loadConfiguration c).seq = s.seq := rfl

@[simp] theorem State.loadConfiguration_k (c : Configuration) (s : State) : (s.loadConfiguration c).k = s.k := rfl

@[simp] theorem State.loadConfiguration_sample (c : Configuration) (s : State) : (s.loadConfiguration c).sample = s.sample := rfl

@[simp] theorem State.loadConfiguration_columnDrive (c : Configuration) (s : State) : (s.loadConfiguration c).columnDrive = s.columnDrive := rfl

@[simp] theorem State.loadConfiguration_shownBitmap (c : Configuration) (s : State) : (s.loadConfiguration c).shownBitmap = s.shownBitmap := rfl

@[simp] theorem State.loadConfiguration_shownCode (c : Configuration) (s : State) : (s.loadConfiguration c).shownCode = s.shownCode := rfl

@[simp] theorem State.loadConfiguration_slotIx (c : Configuration) (s : State) : (s.loadConfiguration c).slotIx = s.slotIx := rfl

@[simp] theorem State.loadConfiguration_pinIx (c : Configuration) (s : State) : (s.loadConfiguration c).pinIx = s.pinIx := rfl

@[simp] theorem State.loadConfiguration_hatIx (c : Configuration) (s : State) : (s.loadConfiguration c).hatIx = s.hatIx := rfl

@[simp] theorem State.loadConfiguration_inp (c : Configuration) (s : State) : (s.loadConfiguration c).inp = s.inp := rfl

@[simp] theorem State.loadConfiguration_stimulus (c : Configuration) (s : State) : (s.loadConfiguration c).stimulus = s.stimulus := rfl

@[simp] theorem State.loadConfiguration_cycles (c : Configuration) (s : State) : (s.loadConfiguration c).cycles = s.cycles := rfl

/-! ### `runResolve` -/

@[simp] theorem runResolve_params (s : State) : (runResolve s).params = s.params := rfl

@[simp] theorem runResolve_cfg (s : State) : (runResolve s).cfg = s.cfg := rfl

@[simp] theorem runResolve_slots (s : State) : (runResolve s).slots = s.slots := rfl

@[simp] theorem runResolve_povMask (s : State) : (runResolve s).povMask = s.povMask := rfl

@[simp] theorem runResolve_povCode (s : State) : (runResolve s).povCode = s.povCode.set s.hatIx (resolveMask (s.povMask.get s.hatIx)) := rfl

@[simp] theorem runResolve_outBitmap (s : State) : (runResolve s).outBitmap = s.outBitmap := rfl

@[simp] theorem runResolve_slotCount (s : State) : (runResolve s).slotCount = s.slotCount := rfl

@[simp] theorem runResolve_seq (s : State) : (runResolve s).seq = s.seq := rfl

@[simp] theorem runResolve_k (s : State) : (runResolve s).k = s.k := rfl

@[simp] theorem runResolve_sample (s : State) : (runResolve s).sample = s.sample := rfl

@[simp] theorem runResolve_columnDrive (s : State) : (runResolve s).columnDrive = s.columnDrive := rfl

@[simp] theorem runResolve_shownBitmap (s : State) : (runResolve s).shownBitmap = s.shownBitmap := rfl

@[simp] theorem runResolve_shownCode (s : State) : (runResolve s).shownCode = s.shownCode := rfl

@[simp] theorem runResolve_slotIx (s : State) : (runResolve s).slotIx = s.slotIx := rfl

@[simp] theorem runResolve_pinIx (s : State) : (runResolve s).pinIx = s.pinIx := rfl

@[simp] theorem runResolve_hatIx (s : State) : (runResolve s).hatIx = s.hatIx := rfl

@[simp] theorem runResolve_inp (s : State) : (runResolve s).inp = s.inp := rfl

@[simp] theorem runResolve_stimulus (s : State) : (runResolve s).stimulus = s.stimulus := rfl

@[simp] theorem runResolve_cycles (s : State) : (runResolve s).cycles = s.cycles := rfl

/-! ### `State.appendSample` -/

@[simp] theorem State.appendSample_params (v : Bool) (s : State) : (s.appendSample v).params = s.params := by
  unfold State.appendSample; split <;> rfl

@[simp] theorem State.appendSample_cfg (v : Bool) (s : State) : (s.appendSample v).cfg = s.cfg := by
  unfold State.appendSample; split <;> rfl

@[simp] theorem State.appendSample_slots (v : Bool) (s : State) : (s.appendSample v).slots = s.slots := by
  unfold State.appendSample; split <;> rfl

@[simp] theorem State.appendSample_povMask (v : Bool) (s : State) : (s.appendSample v).povMask = s.povMask := by
  unfold State.appendSample; split <;> rfl

@[simp] theorem State.appendSample_povCode (v : Bool) (s : State) : (s.appendSample v).povCode = s.povCode := by
  unfold State.appendSample; split <;> rfl

@[simp] theorem State.appendSample_outBitmap (v : Bool) (s : State) : (s.appendSample v).outBitmap = s.outBitmap := by
  unfold State.appendSample; split <;> rfl

@[simp] theorem State.appendSample_slotCount (v : Bool) (s : State) : (s.appendSample v).slotCount = s.slotCount := by
  unfold State.appendSample; split <;> rfl

@[simp] theorem State.appendSample_seq (v : Bool) (s : State) : (s.appendSample v).seq = s.seq := by
  unfold State.appendSample; split <;> rfl

@[simp] theorem State.appendSample_columnDrive (v : Bool) (s : State) : (s.appendSample v).columnDrive = s.columnDrive := by
  unfold State.appendSample; split <;> rfl

@[simp] theorem State.appendSample_shownBitmap (v : Bool) (s : State) : (s.appendSample v).shownBitmap = s.shownBitmap := by
  unfold State.appendSample; split <;> rfl

@[simp] theorem State.appendSample_shownCode (v : Bool) (s : State) : (s.appendSample v).shownCode = s.shownCode := by
  unfold State.appendSample; split <;> rfl

@[simp] theorem State.appendSample_slotIx (v : Bool) (s : State) : (s.appendSample v).slotIx = s.slotIx := by
  unfold State.appendSample; split <;> rfl

@[simp] theorem State.appendSample_pinIx (v : Bool) (s : State) : (s.appendSample v).pinIx = s.pinIx := by
  unfold State.appendSample; split <;> rfl

@[simp] theorem State.appendSample_hatIx (v : Bool) (s : State) : (s.appendSample v).hatIx = s.hatIx := by
  unfold State.appendSample; split <;> rfl

@[simp] theorem State.appendSample_inp (v : Bool) (s : State) : (s.appendSample v).inp = s.inp := by
  unfold State.appendSample; split <;> rfl

@[simp] theorem State.appendSample_stimulus (v : Bool) (s : State) : (s.appendSample v).stimulus = s.stimulus := by
  unfold State.appendSample; split <;> rfl

@[simp] theorem State.appendSample_cycles (v : Bool) (s : State) : (s.appendSample v).cycles = s.cycles := by
  unfold State.appendSample; split <;> rfl

/-! ### `State.latchSlot` -/

@[simp] theorem State.latchSlot_params (i : Nat) (s : State) : (State.latchSlot i s).params = s.params := by
  unfold State.latchSlot; split <;> rfl

@[simp] theorem State.latchSlot_cfg (i : Nat) (s : State) : (State.latchSlot i s).cfg = s.cfg := by
  unfold State.latchSlot; split <;> rfl

@[simp] theorem State.latchSlot_povMask (i : Nat) (s : State) : (State.latchSlot i s).povMask = s.povMask := by
  unfold State.latchSlot; split <;> rfl

@[simp] theorem State.latchSlot_povCode (i : Nat) (s : State) : (State.latchSlot i s).povCode = s.povCode := by
  unfold State.latchSlot; split <;> rfl

@[simp] theorem State.latchSlot_outBitmap (i : Nat) (s : State) : (State.latchSlot i s).outBitmap = s.outBitmap := by
  unfold State.latchSlot; split <;> rfl

@[simp] theorem State.latchSlot_slotCount (i : Nat) (s : State) : (State.latchSlot i s).slotCount = s.slotCount := by
  unfold State.latchSlot; split <;> rfl

@[simp] theorem State.latchSlot_seq (i : Nat) (s : State) : (State.latchSlot i s).seq = s.seq := by
  unfold State.latchSlot; split <;> rfl

@[simp] theorem State.latchSlot_k (i : Nat) (s : State) : (State.latchSlot i s).k = s.k := by
  unfold State.latchSlot; split <;> rfl

@[simp] theorem State.latchSlot_sample (i : Nat) (s : State) : (State.latchSlot i s).sample = s.sample := by
  unfold State.latchSlot; split <;> rfl

@[simp] theorem State.latchSlot_columnDrive (i : Nat) (s : State) : (State.latchSlot i s).columnDrive = s.columnDrive := by
  unfold State.latchSlot; split <;> rfl

@[simp] theorem State.latchSlot_shownBitmap (i : Nat) (s : State) : (State.latchSlot i s).shownBitmap = s.shownBitmap := by
  unfold State.latchSlot; split <;> rfl

@[simp] theorem State.latchSlot_shownCode (i : Nat) (s : State) : (State.latchSlot i s).shownCode = s.shownCode := by
  unfold State.latchSlot; split <;> rfl

@[simp] theorem State.latchSlot_slotIx (i : Nat) (s : State) : (State.latchSlot i s).slotIx = s.slotIx := by
  unfold State.latchSlot; split <;> rfl

@[simp] theorem State.latchSlot_pinIx (i : Nat) (s : State) : (State.latchSlot i s).pinIx = s.pinIx := by
  unfold State.latchSlot; split <;> rfl

@[simp] theorem State.latchSlot_hatIx (i : Nat) (s : State) : (State.latchSlot i s).hatIx = s.hatIx := by
  unfold State.latchSlot; split <;> rfl

@[simp] theorem State.latchSlot_inp (i : Nat) (s : State) : (State.latchSlot i s).inp = s.inp := by
  unfold State.latchSlot; split <;> rfl

@[simp] theorem State.latchSlot_stimulus (i : Nat) (s : State) : (State.latchSlot i s).stimulus = s.stimulus := by
  unfold State.latchSlot; split <;> rfl

@[simp] theorem State.latchSlot_cycles (i : Nat) (s : State) : (State.latchSlot i s).cycles = s.cycles := by
  unfold State.latchSlot; split <;> rfl

/-! ### `mergeSlot` -/

@[simp] theorem mergeSlot_params (i : Nat) (s : State) : (mergeSlot i s).params = s.params := by
  unfold mergeSlot; split <;> rfl

@[simp] theorem mergeSlot_cfg (i : Nat) (s : State) : (mergeSlot i s).cfg = s.cfg := by
  unfold mergeSlot; split <;> rfl

@[simp] theorem mergeSlot_slots (i : Nat) (s : State) : (mergeSlot i s).slots = s.slots := by
  unfold mergeSlot; split <;> rfl

@[simp] theorem mergeSlot_povMask (i : Nat) (s : State) : (mergeSlot i s).povMask = s.povMask := by
  unfold mergeSlot; split <;> rfl

@[simp] theorem mergeSlot_povCode (i : Nat) (s : State) : (mergeSlot i s).povCode = s.povCode := by
  unfold mergeSlot; split <;> rfl

@[simp] theorem mergeSlot_outBitmap (i : Nat) (s : State) : (mergeSlot i s).outBitmap = s.outBitmap := by
  unfold mergeSlot; split <;> rfl

@[simp] theorem mergeSlot_slotCount (i : Nat) (s : State) : (mergeSlot i s).slotCount = s.slotCount := by
  unfold mergeSlot; split <;> rfl

@[simp] theorem mergeSlot_seq (i : Nat) (s : State) : (mergeSlot i s).seq = s.seq := by
  unfold mergeSlot; split <;> rfl

@[simp] theorem mergeSlot_k (i : Nat) (s : State) : (mergeSlot i s).k = s.k := by
  unfold mergeSlot; split <;> rfl

@[simp] theorem mergeSlot_columnDrive (i : Nat) (s : State) : (mergeSlot i s).columnDrive = s.columnDrive := by
  unfold mergeSlot; split <;> rfl

@[simp] theorem mergeSlot_shownBitmap (i : Nat) (s : State) : (mergeSlot i s).shownBitmap = s.shownBitmap := by
  unfold mergeSlot; split <;> rfl

@[simp] theorem mergeSlot_shownCode (i : Nat) (s : State) : (mergeSlot i s).shownCode = s.shownCode := by
  unfold mergeSlot; split <;> rfl

@[simp] theorem mergeSlot_slotIx (i : Nat) (s : State) : (mergeSlot i s).slotIx = s.slotIx := by
  unfold mergeSlot; split <;> rfl

@[simp] theorem mergeSlot_pinIx (i : Nat) (s : State) : (mergeSlot i s).pinIx = s.pinIx := by
  unfold mergeSlot; split <;> rfl

@[simp] theorem mergeSlot_hatIx (i : Nat) (s : State) : (mergeSlot i s).hatIx = s.hatIx := by
  unfold mergeSlot; split <;> rfl

@[simp] theorem mergeSlot_inp (i : Nat) (s : State) : (mergeSlot i s).inp = s.inp := by
  unfold mergeSlot; split <;> rfl

@[simp] theorem mergeSlot_stimulus (i : Nat) (s : State) : (mergeSlot i s).stimulus = s.stimulus := by
  unfold mergeSlot; split <;> rfl

@[simp] theorem mergeSlot_cycles (i : Nat) (s : State) : (mergeSlot i s).cycles = s.cycles := by
  unfold mergeSlot; split <;> rfl

/-! ### `packSlot` -/

@[simp] theorem packSlot_params (i : Nat) (s : State) : (packSlot i s).params = s.params := by
  unfold packSlot; split <;> rfl

@[simp] theorem packSlot_cfg (i : Nat) (s : State) : (packSlot i s).cfg = s.cfg := by
  unfold packSlot; split <;> rfl

@[simp] theorem packSlot_slots (i : Nat) (s : State) : (packSlot i s).slots = s.slots := by
  unfold packSlot; split <;> rfl

@[simp] theorem packSlot_povMask (i : Nat) (s : State) : (packSlot i s).povMask = s.povMask := by
  unfold packSlot; split <;> rfl

@[simp] theorem packSlot_povCode (i : Nat) (s : State) : (packSlot i s).povCode = s.povCode := by
  unfold packSlot; split <;> rfl

@[simp] theorem packSlot_slotCount (i : Nat) (s : State) : (packSlot i s).slotCount = s.slotCount := by
  unfold packSlot; split <;> rfl

@[simp] theorem packSlot_seq (i : Nat) (s : State) : (packSlot i s).seq = s.seq := by
  unfold packSlot; split <;> rfl

@[simp] theorem packSlot_k (i : Nat) (s : State) : (packSlot i s).k = s.k := by
  unfold packSlot; split <;> rfl

@[simp] theorem packSlot_sample (i : Nat) (s : State) : (packSlot i s).sample = s.sample := by
  unfold packSlot; split <;> rfl

@[simp] theorem packSlot_columnDrive (i : Nat) (s : State) : (packSlot i s).columnDrive = s.columnDrive := by
  unfold packSlot; split <;> rfl

@[simp] theorem packSlot_shownBitmap (i : Nat) (s : State) : (packSlot i s).shownBitmap = s.shownBitmap := by
  unfold packSlot; split <;> rfl

@[simp] theorem packSlot_shownCode (i : Nat) (s : State) : (packSlot i s).shownCode = s.shownCode := by
  unfold packSlot; split <;> rfl

@[simp] theorem packSlot_slotIx (i : Nat) (s : State) : (packSlot i s).slotIx = s.slotIx := by
  unfold packSlot; split <;> rfl

@[simp] theorem packSlot_pinIx (i : Nat) (s : State) : (packSlot i s).pinIx = s.pinIx := by
  unfold packSlot; split <;> rfl

@[simp] theorem packSlot_hatIx (i : Nat) (s : State) : (packSlot i s).hatIx = s.hatIx := by
  unfold packSlot; split <;> rfl

@[simp] theorem packSlot_inp (i : Nat) (s : State) : (packSlot i s).inp = s.inp := by
  unfold packSlot; split <;> rfl

@[simp] theorem packSlot_stimulus (i : Nat) (s : State) : (packSlot i s).stimulus = s.stimulus := by
  unfold packSlot; split <;> rfl

@[simp] theorem packSlot_cycles (i : Nat) (s : State) : (packSlot i s).cycles = s.cycles := by
  unfold packSlot; split <;> rfl

/-! ### `runPov` -/

@[simp] theorem runPov_params (h : Hat) (d : Nat) (s : State) : (runPov h d s).params = s.params := by
  unfold runPov; split <;> rfl

@[simp] theorem runPov_cfg (h : Hat) (d : Nat) (s : State) : (runPov h d s).cfg = s.cfg := by
  unfold runPov; split <;> rfl

@[simp] theorem runPov_povCode (h : Hat) (d : Nat) (s : State) : (runPov h d s).povCode = s.povCode := by
  unfold runPov; split <;> rfl

@[simp] theorem runPov_outBitmap (h : Hat) (d : Nat) (s : State) : (runPov h d s).outBitmap = s.outBitmap := by
  unfold runPov; split <;> rfl

@[simp] theorem runPov_slotCount (h : Hat) (d : Nat) (s : State) : (runPov h d s).slotCount = s.slotCount := by
  unfold runPov; split <;> rfl

@[simp] theorem runPov_seq (h : Hat) (d : Nat) (s : State) : (runPov h d s).seq = s.seq := by
  unfold runPov; split <;> rfl

@[simp] theorem runPov_k (h : Hat) (d : Nat) (s : State) : (runPov h d s).k = s.k := by
  unfold runPov; split <;> rfl

@[simp] theorem runPov_sample (h : Hat) (d : Nat) (s : State) : (runPov h d s).sample = s.sample := by
  unfold runPov; split <;> rfl

@[simp] theorem runPov_columnDrive (h : Hat) (d : Nat) (s : State) : (runPov h d s).columnDrive = s.columnDrive := by
  unfold runPov; split <;> rfl

@[simp] theorem runPov_shownBitmap (h : Hat) (d : Nat) (s : State) : (runPov h d s).shownBitmap = s.shownBitmap := by
  unfold runPov; split <;> rfl

@[simp] theorem runPov_shownCode (h : Hat) (d : Nat) (s : State) : (runPov h d s).shownCode = s.shownCode := by
  unfold runPov; split <;> rfl

@[simp] theorem runPov_slotIx (h : Hat) (d : Nat) (s : State) : (runPov h d s).slotIx = s.slotIx := by
  unfold runPov; split <;> rfl

@[simp] theorem runPov_pinIx (h : Hat) (d : Nat) (s : State) : (runPov h d s).pinIx = s.pinIx := by
  unfold runPov; split <;> rfl

@[simp] theorem runPov_hatIx (h : Hat) (d : Nat) (s : State) : (runPov h d s).hatIx = s.hatIx := by
  unfold runPov; split <;> rfl

@[simp] theorem runPov_inp (h : Hat) (d : Nat) (s : State) : (runPov h d s).inp = s.inp := by
  unfold runPov; split <;> rfl

@[simp] theorem runPov_stimulus (h : Hat) (d : Nat) (s : State) : (runPov h d s).stimulus = s.stimulus := by
  unfold runPov; split <;> rfl

@[simp] theorem runPov_cycles (h : Hat) (d : Nat) (s : State) : (runPov h d s).cycles = s.cycles := by
  unfold runPov; split <;> rfl

/-! ### `State.leave` -/

@[simp] theorem State.leave_params (s : State) : (s.leave).params = s.params := by
  unfold State.leave; split <;> rfl

@[simp] theorem State.leave_cfg (s : State) : (s.leave).cfg = s.cfg := by
  unfold State.leave; split <;> rfl

@[simp] theorem State.leave_slots (s : State) : (s.leave).slots = s.slots := by
  unfold State.leave; split <;> rfl

@[simp] theorem State.leave_povMask (s : State) : (s.leave).povMask = s.povMask := by
  unfold State.leave; split <;> rfl

@[simp] theorem State.leave_povCode (s : State) : (s.leave).povCode = s.povCode := by
  unfold State.leave; split <;> rfl

@[simp] theorem State.leave_outBitmap (s : State) : (s.leave).outBitmap = s.outBitmap := by
  unfold State.leave; split <;> rfl

@[simp] theorem State.leave_slotCount (s : State) : (s.leave).slotCount = s.slotCount := by
  unfold State.leave; split <;> rfl

@[simp] theorem State.leave_k (s : State) : (s.leave).k = s.k := by
  unfold State.leave; split <;> rfl

@[simp] theorem State.leave_sample (s : State) : (s.leave).sample = s.sample := by
  unfold State.leave; split <;> rfl

@[simp] theorem State.leave_columnDrive (s : State) : (s.leave).columnDrive = s.columnDrive := by
  unfold State.leave; split <;> rfl

@[simp] theorem State.leave_slotIx (s : State) : (s.leave).slotIx = s.slotIx := by
  unfold State.leave; split <;> rfl

@[simp] theorem State.leave_pinIx (s : State) : (s.leave).pinIx = s.pinIx := by
  unfold State.leave; split <;> rfl

@[simp] theorem State.leave_hatIx (s : State) : (s.leave).hatIx = s.hatIx := by
  unfold State.leave; split <;> rfl

@[simp] theorem State.leave_inp (s : State) : (s.leave).inp = s.inp := by
  unfold State.leave; split <;> rfl

@[simp] theorem State.leave_stimulus (s : State) : (s.leave).stimulus = s.stimulus := by
  unfold State.leave; split <;> rfl

@[simp] theorem State.leave_cycles (s : State) : (s.leave).cycles = s.cycles := by
  unfold State.leave; split <;> rfl

@[simp] theorem State.leave_seq (s : State) : s.leave.seq = s.seq.after := by
  unfold State.leave; split
  · next e => simp [SeqPos.after, e]
  · rfl

/-- After step 8 the snapshot takes the outputs; nowhere else does it change (R46). -/
theorem State.leave_shown (s : State) :
    (s.leave.shownBitmap = if s.seq = .rebuildBitmap then s.outBitmap else s.shownBitmap) ∧
    (s.leave.shownCode = if s.seq = .rebuildBitmap then s.povCode else s.shownCode) := by
  unfold State.leave
  split
  · next e => simp [e]
  · next ne => exact ⟨(if_neg ne).symm, (if_neg ne).symm⟩

/-! ### `State.powerOn` -/

/-- Power-on keeps the parameters, the configuration, the schedule and the counter of cycles, and resets the rest. -/
theorem State.powerOn_eq (s : State) :
    s.powerOn = { State.resetOf s.params s.cfg s.stimulus with cycles := s.cycles } := rfl

@[simp] theorem State.powerOn_params (s : State) : s.powerOn.params = s.params := rfl
@[simp] theorem State.powerOn_cfg (s : State) : s.powerOn.cfg = s.cfg := rfl
@[simp] theorem State.powerOn_stimulus (s : State) : s.powerOn.stimulus = s.stimulus := rfl
@[simp] theorem State.powerOn_cycles (s : State) : s.powerOn.cycles = s.cycles := rfl
@[simp] theorem State.powerOn_seq (s : State) : s.powerOn.seq = .idle := rfl
@[simp] theorem State.powerOn_slotCount (s : State) : s.powerOn.slotCount = 0 := rfl
@[simp] theorem State.powerOn_outBitmap (s : State) : s.powerOn.outBitmap = [] := rfl
@[simp] theorem State.powerOn_slots (s : State) : s.powerOn.slots = List.replicate s.params.N Slot.reset := rfl

end Sys2Proof.Machine
end

