-- ==== Sys2Proof/Laws/Runs.lean ====
section
/-! SUPPORT. What the shared operations can do, once each: walks, sample assignment, the arms of an advance, the
comparators. -/

namespace Sys2Proof.Machine

/-! ### Walks -/

@[simp] theorem runOver_nil (f : Nat → State → State) (s : State) : runOver f [] s = s := rfl

@[simp] theorem runOver_cons (f : Nat → State → State) (n : Nat) (l : List Nat) (s : State) :
    runOver f (n :: l) s = runOver f l (f n s) := rfl

theorem runOver_append (f : Nat → State → State) (l l' : List Nat) (s : State) :
    runOver f (l ++ l') s = runOver f l' (runOver f l s) := by
  induction l generalizing s with
  | nil => rfl
  | cons n l ih => exact ih (f n s)

theorem runOver_range_succ (f : Nat → State → State) (n : Nat) (s : State) :
    runOver f (List.range (n + 1)) s = f n (runOver f (List.range n) s) := by
  rw [List.range_succ, runOver_append]; rfl

/-- What every visit keeps, the walk keeps. -/
theorem runOver_keeps {P : State → Prop} {f : Nat → State → State} (h : ∀ n s, P s → P (f n s)) (l : List Nat)
    {s : State} (hs : P s) : P (runOver f l s) := by
  induction l generalizing s with
  | nil => exact hs
  | cons n l ih => exact ih (h n s hs)

/-- A field that no visit changes is unchanged by the walk. -/
theorem runOver_field {α : Type} (g : State → α) {f : Nat → State → State} (h : ∀ n s, g (f n s) = g s)
    (l : List Nat) (s : State) : g (runOver f l s) = g s := by
  induction l generalizing s with
  | nil => rfl
  | cons n l ih => rw [runOver_cons, ih, h]

/-- A walk from 0 to n - 1, by a fact that may name how far it got. -/
theorem runOver_range_induct {P : Nat → State → Prop} {f : Nat → State → State} {s : State} (n : Nat)
    (start : P 0 s) (visit : ∀ i t, i < n → P i t → P (i + 1) (f i t)) : P n (runOver f (List.range n) s) := by
  induction n with
  | zero => exact start
  | succ n ih =>
    rw [runOver_range_succ]
    exact visit n _ (Nat.lt_succ_self n) (ih fun i t hi => visit i t (Nat.lt_succ_of_lt hi))

/-! ### Sample assignment (R27, R168) -/

/-- Assigning a list of samples, in order. -/
def appendAll : List Bool → State → State
  | [], s => s
  | v :: vs, s => appendAll vs (s.appendSample v)

theorem appendSample_full {s : State} (full : s.params.N ≤ s.k) (v : Bool) : s.appendSample v = s := by
  unfold State.appendSample; rw [if_neg (by omega)]

theorem appendSample_room {s : State} (room : s.k < s.params.N) (v : Bool) :
    s.appendSample v = { s with sample := s.sample.set s.k v, k := s.k + 1 } := by
  unfold State.appendSample; rw [if_pos room]

theorem appendAll_append (us vs : List Bool) (s : State) :
    appendAll (us ++ vs) s = appendAll vs (appendAll us s) := by
  induction us generalizing s with
  | nil => rfl
  | cons u us ih => exact ih (s.appendSample u)

/-- What assigning samples does to the cursor (R168). -/
theorem appendAll_k (vs : List Bool) {s : State} (h : s.k ≤ s.params.N) :
    (appendAll vs s).k = min s.params.N (s.k + vs.length) := by
  induction vs generalizing s with
  | nil => simp only [appendAll, List.length_nil]; omega
  | cons v vs ih =>
    simp only [appendAll, List.length_cons]
    by_cases room : s.k < s.params.N
    · rw [ih (by rw [appendSample_room room]; exact room), appendSample_room room]
      simp only; omega
    · rw [appendSample_full (by omega), ih h]; omega

/-- What assigning samples does to the staging array: sample n lands at k + n while there is room. -/
theorem appendAll_sample (vs : List Bool) {s : State} (len : s.sample.length = s.params.N) (j : Nat) :
    (appendAll vs s).sample[j]? =
      if s.k ≤ j ∧ j < s.params.N ∧ j - s.k < vs.length then vs[j - s.k]? else s.sample[j]? := by
  induction vs generalizing s with
  | nil => simp [appendAll]
  | cons v vs ih =>
    simp only [appendAll]
    by_cases room : s.k < s.params.N
    · rw [ih (by simp [appendSample_room room, len])]
      simp only [appendSample_room room, List.length_cons, List.getElem?_set]
      by_cases e : s.k = j
      · subst e
        have out : ¬(s.k + 1 ≤ s.k ∧ s.k < s.params.N ∧ s.k - (s.k + 1) < vs.length) := by omega
        have here : s.k ≤ s.k ∧ s.k < s.params.N ∧ s.k - s.k < vs.length + 1 :=
          ⟨Nat.le_refl _, room, by omega⟩
        rw [if_neg out, if_pos here]
        simp [len, room]
      · by_cases le : s.k + 1 ≤ j ∧ j < s.params.N ∧ j - (s.k + 1) < vs.length
        · rw [if_pos le, if_pos ⟨by omega, le.2.1, by omega⟩]
          have : j - s.k = (j - (s.k + 1)) + 1 := by omega
          rw [this, List.getElem?_cons_succ]
        · rw [if_neg le, if_neg e, if_neg (by omega)]
    · rw [appendSample_full (by omega), ih len, if_neg (by omega), if_neg (by omega)]

/-- Assigning samples changes the cursor and the staging array only. -/
theorem appendAll_frame (vs : List Bool) (s : State) :
    appendAll vs s = { s with sample := (appendAll vs s).sample, k := (appendAll vs s).k } := by
  induction vs generalizing s with
  | nil => rfl
  | cons v vs ih =>
    simp only [appendAll]
    rw [ih]
    by_cases room : s.k < s.params.N
    · rw [appendSample_room room]
    · rw [appendSample_full (by omega)]

theorem appendAll_sample_length (vs : List Bool) (s : State) :
    (appendAll vs s).sample.length = s.sample.length := by
  induction vs generalizing s with
  | nil => rfl
  | cons v vs ih =>
    simp only [appendAll, ih]
    by_cases room : s.k < s.params.N
    · simp [appendSample_room room]
    · simp [appendSample_full (s := s) (by omega)]

/-! ### Arms and their writes (R83 to R88) -/

/-- R88: everything the chain can choose, with the guard of each arm. -/
theorem chooseArm_cases (pending q expired g : Bool) (extra : Arm) :
    (pending = false ∧ q = true ∧ chooseArm pending q expired g extra = .opens) ∨
    (pending = true ∧ q = true ∧ expired = true ∧ chooseArm pending q expired g extra = .commits) ∨
    (¬(pending = false ∧ q = true) ∧ ¬(q = true ∧ expired = true) ∧ g = true ∧
      chooseArm pending q expired g extra = extra) ∨
    (pending = true ∧ q = false ∧ expired = true ∧ g = false ∧
      chooseArm pending q expired g extra = .aborts) ∨
    (¬(pending = false ∧ q = true) ∧ ¬(pending = true ∧ expired = true) ∧ g = false ∧
      chooseArm pending q expired g extra = .rests) := by
  cases pending <;> cases q <;> cases expired <;> cases g <;> simp [chooseArm]

/-- No arm writes the sample fields if the mode's own writes do not (R80). -/
theorem applyArm_samples (a : Arm) (now : U32) {commit extra : Slot → Slot}
    (hc : ∀ r, (commit r).pinState = r.pinState ∧ (commit r).pinPrevState = r.pinPrevState)
    (he : ∀ r, (extra r).pinState = r.pinState ∧ (extra r).pinPrevState = r.pinPrevState) (r : Slot) :
    (applyArm a now commit extra r).pinState = r.pinState ∧
    (applyArm a now commit extra r).pinPrevState = r.pinPrevState := by
  cases a <;> simp [applyArm, hc, he]

/-! ### Comparators and the counter (R17, R81) -/

theorem gtU_iff (a b : U32) : gtU a b = true ↔ b.toNat < a.toNat := by
  simp [gtU, BitVec.ult]

theorem elapsed_toNat (now last : U32) : (elapsed now last).toNat = (now.toNat + 2 ^ 32 - last.toNat) % 2 ^ 32 := by
  simp only [elapsed, BitVec.toNat_sub]
  have := last.isLt
  congr 1; omega

@[simp] theorem addPress_false (o : Overflow) (n : U32) : addPress o n false = n := by cases o <;> rfl

@[simp] theorem addPress_wrap (n : U32) : addPress .wrap n true = n + 1 := rfl

/-! ### Masks (R61, R89) -/

/-- Writing one direction's bit sets that bit to the level and leaves the other three. -/
theorem maskWrite_bit (m : Mask) (d e : Fin 4) (v : Bool) :
    (maskWrite m (directionBit d.val) v).getLsbD (3 - e.val) =
      if e = d then v else m.getLsbD (3 - e.val) := by
  revert m; fin_cases d <;> fin_cases e <;> cases v <;> decide

end Sys2Proof.Machine
end

