-- ==== Sys2Proof/Laws/Advance.lean ====
section
/-! SUPPORT. What an advance can touch: the slot at the walk index and the masks, nothing else (40_debounce_common.md
R80, 60_exceptions.md R198). -/

namespace Sys2Proof.Machine

/-! ### The slot at the walk index -/

theorem onSlot_here {s : State} {r : Slot} (h : s.slotHere = some r) (f : Slot → Slot) :
    s.onSlot f = { s with slots := s.slots.set s.slotIx (f r) } := by
  unfold State.slotHere at h
  unfold State.onSlot
  rw [List.modify_eq_set_getElem?, h]; rfl

theorem onSlot_nowhere {s : State} (h : s.slotHere = none) (f : Slot → Slot) : s.onSlot f = s := by
  unfold State.slotHere at h
  unfold State.onSlot
  rw [List.modify_eq_set_getElem?, h]; rfl

theorem set_here {s : State} {r : Slot} (h : s.slotHere = some r) : s.slots.set s.slotIx r = s.slots := by
  unfold State.slotHere at h
  obtain ⟨lt, eq⟩ := List.getElem?_eq_some_iff.mp h
  rw [← eq]; exact List.set_getElem_self lt

theorem runPov_here {s : State} {r : Slot} (h : s.slotHere = some r) (g : Hat) (d : Nat) :
    runPov g d s =
      { s with slots := s.slots.set s.slotIx (povAdvance s r), povMask := povMaskAfter s g d r } := by
  unfold runPov
  rw [h]; simp only
  rw [onSlot_here h]

theorem runPov_nowhere {s : State} (h : s.slotHere = none) (g : Hat) (d : Nat) : runPov g d s = s := by
  unfold runPov; rw [h]

/-! ### Frames -/

theorem runMode_frame (i : Instr) (s : State) :
    runMode i s = { s with slots := (runMode i s).slots, povMask := (runMode i s).povMask } := by
  cases i <;> simp [runMode, runNormal, runInverted, runToggle, runToggleSwitch, runToggleSwitchOn,
    runToggleSwitchOff, runPovUp, runPovRight, runPovDown, runPovLeft, runModeReserved, State.onSlot, runPov]
  all_goals (split <;> rfl)

theorem exec_mode {m : Instr} (h : m.format = .mode8) (s : State) : exec m s = .next (runMode m s) := by
  cases m <;> first | rfl | cases h

theorem runMode_slots_length (i : Instr) (s : State) : (runMode i s).slots.length = s.slots.length := by
  cases i <;> simp [runMode, runNormal, runInverted, runToggle, runToggleSwitch, runToggleSwitchOn,
    runToggleSwitchOff, runPovUp, runPovRight, runPovDown, runPovLeft, runModeReserved, State.onSlot, runPov]
  all_goals (split <;> simp)

theorem runMode_slots_other (i : Instr) {s : State} {j : Nat} (ne : j ≠ s.slotIx) :
    (runMode i s).slots[j]? = s.slots[j]? := by
  have ne' : s.slotIx ≠ j := Ne.symm ne
  cases i <;> simp [runMode, runNormal, runInverted, runToggle, runToggleSwitch, runToggleSwitchOn,
    runToggleSwitchOff, runPovUp, runPovRight, runPovDown, runPovLeft, runModeReserved, State.onSlot, runPov,
    ne']
  all_goals (split <;> simp [ne'])

theorem advance_frame (i : Nat) (s : State) :
    advance i s = { s with slots := (advance i s).slots, povMask := (advance i s).povMask, slotIx := i } := by
  unfold advance
  split
  · rfl
  · rw [runMode_frame]

theorem advance_slots_length (i : Nat) (s : State) : (advance i s).slots.length = s.slots.length := by
  unfold advance
  split
  · rfl
  · rw [runMode_slots_length]

theorem advance_slots_other (i : Nat) {s : State} {j : Nat} (ne : j ≠ i) :
    (advance i s).slots[j]? = s.slots[j]? := by
  unfold advance
  split
  · rfl
  · rw [runMode_slots_other _ (by exact ne)]

/-- A walk of advances keeps everything but the slots, the masks and the walk index. -/
theorem advances_frame (l : List Nat) (s : State) :
    runOver advance l s = { s with
      slots := (runOver advance l s).slots
      povMask := (runOver advance l s).povMask
      slotIx := (runOver advance l s).slotIx } := by
  refine runOver_keeps
    (P := fun t => t = { s with slots := t.slots, povMask := t.povMask, slotIx := t.slotIx }) ?_ l rfl
  intro n t ht
  rw [advance_frame]; rw [ht]

theorem runAdvanceAll_frame (s : State) :
    runAdvanceAll s = { s with
      slots := (runAdvanceAll s).slots, povMask := (runAdvanceAll s).povMask, slotIx := 0 } := by
  unfold runAdvanceAll
  simp only
  rw [advances_frame]

theorem runAdvanceAll_slots_length (s : State) : (runAdvanceAll s).slots.length = s.slots.length := by
  show (runOver advance _ s).slots.length = _
  exact runOver_field (fun t => t.slots.length) (f := advance) (fun n t => advance_slots_length n t) _ s

/-- Where a walk of advances has not been yet, the slots are as they were. -/
theorem advances_ahead (s : State) {n j : Nat} (le : n ≤ j) :
    (runOver advance (List.range n) s).slots[j]? = s.slots[j]? := by
  induction n with
  | zero => rfl
  | succ n ih => rw [runOver_range_succ, advance_slots_other _ (by omega), ih (by omega)]

end Sys2Proof.Machine
end

