-- ==== Sys2Proof/Laws/Memory.lean ====
section
/-! SUPPORT. The laws of the bitmap memory: read after write, the canonical form, extensionality, single bits. -/

namespace Sys2Proof.Machine

theorem Memory.wfFrom_mono {m : Memory} {lo lo' : Nat} (le : lo' ≤ lo) (h : Memory.wfFrom lo m = true) :
    Memory.wfFrom lo' m = true := by
  cases m with
  | nil => rfl
  | cons c rest =>
    obtain ⟨a, v⟩ := c
    simp only [Memory.wfFrom, Bool.and_eq_true, decide_eq_true_eq] at h ⊢
    exact ⟨⟨by omega, h.1.2⟩, h.2⟩

/-- Below the first listed index a canonical memory reads 0. -/
theorem Memory.read_below {m : Memory} {lo j : Nat} (h : Memory.wfFrom lo m = true) (lt : j < lo) :
    Memory.read m j = 0 := by
  induction m generalizing lo with
  | nil => rfl
  | cons c rest ih =>
    obtain ⟨a, v⟩ := c
    simp only [Memory.wfFrom, Bool.and_eq_true, decide_eq_true_eq] at h
    have ne : j ≠ a := by omega
    simp only [Memory.read, ne, if_false]
    exact ih h.2 (by omega)

theorem Memory.read_write_same (m : Memory) (j : Nat) (v : Byte) {lo : Nat} (h : Memory.wfFrom lo m = true) :
    Memory.read (Memory.write m j v) j = v := by
  induction m generalizing lo with
  | nil =>
    simp only [Memory.write]
    split
    · next e => simp [Memory.read, e]
    · simp [Memory.read]
  | cons c rest ih =>
    obtain ⟨a, w⟩ := c
    have whole := h
    simp only [Memory.wfFrom, Bool.and_eq_true, decide_eq_true_eq] at h
    simp only [Memory.write]
    split
    · next lt =>
      split
      · next e =>
        rw [e]
        refine Memory.read_below (lo := a) ?_ lt
        simp only [Memory.wfFrom, Bool.and_eq_true, decide_eq_true_eq]
        exact ⟨⟨le_refl a, h.1.2⟩, h.2⟩
      · simp [Memory.read]
    · split
      · next eq =>
        split
        · next e => rw [e]; exact Memory.read_below h.2 (by omega)
        · simp [Memory.read]
      · next ne =>
        simp only [Memory.read, ne, if_false]
        exact ih h.2

theorem Memory.read_write_other (m : Memory) {j a : Nat} (v : Byte) (ne : a ≠ j) :
    Memory.read (Memory.write m j v) a = Memory.read m a := by
  induction m with
  | nil =>
    simp only [Memory.write]
    split <;> simp [Memory.read, ne]
  | cons c rest ih =>
    obtain ⟨b, w⟩ := c
    simp only [Memory.write]
    split
    · split <;> simp [Memory.read, ne]
    · split
      · next eq => subst eq; split <;> simp [Memory.read, ne]
      · simp only [Memory.read]; split
        · rfl
        · exact ih

theorem Memory.wfFrom_write {m : Memory} {lo j : Nat} (v : Byte) (h : Memory.wfFrom lo m = true) (le : lo ≤ j) :
    Memory.wfFrom lo (Memory.write m j v) = true := by
  induction m generalizing lo with
  | nil =>
    simp only [Memory.write]
    split
    · rfl
    · next ne => simp [Memory.wfFrom, le]; exact ne
  | cons c rest ih =>
    obtain ⟨a, w⟩ := c
    simp only [Memory.wfFrom, Bool.and_eq_true, decide_eq_true_eq] at h
    simp only [Memory.write]
    split
    · next lt =>
      split
      · simp only [Memory.wfFrom, Bool.and_eq_true, decide_eq_true_eq]; exact h
      · next ne =>
        simp only [Memory.wfFrom, Bool.and_eq_true, decide_eq_true_eq]
        exact ⟨⟨le, bne_iff_ne.mpr ne⟩, ⟨by omega, h.1.2⟩, h.2⟩
    · split
      · next eq =>
        split
        · exact Memory.wfFrom_mono (by omega) h.2
        · next ne =>
          simp only [Memory.wfFrom, Bool.and_eq_true, decide_eq_true_eq]
          exact ⟨⟨by omega, bne_iff_ne.mpr ne⟩, eq ▸ h.2⟩
      · simp only [Memory.wfFrom, Bool.and_eq_true, decide_eq_true_eq]
        exact ⟨h.1, ih h.2 (by omega)⟩

/-- Every write keeps the canonical form. -/
theorem Memory.wf_write {m : Memory} (j : Nat) (v : Byte) (h : m.wf = true) : (Memory.write m j v).wf = true :=
  Memory.wfFrom_write v h (Nat.zero_le j)

theorem Memory.below_write {m : Memory} {j n : Nat} (v : Byte) (h : m.below n = true) (lt : j < n) :
    (Memory.write m j v).below n = true := by
  induction m with
  | nil =>
    simp only [Memory.write]
    split
    · rfl
    · simp [Memory.below, lt]
  | cons c rest ih =>
    obtain ⟨a, w⟩ := c
    have hr : Memory.below rest n = true := by
      simp only [Memory.below, List.all_cons, Bool.and_eq_true] at h ⊢; exact h.2
    have ha : a < n := by
      simp only [Memory.below, List.all_cons, Bool.and_eq_true, decide_eq_true_eq] at h; exact h.1
    simp only [Memory.write]
    split
    · split
      · exact h
      · simp only [Memory.below, List.all_cons, Bool.and_eq_true, decide_eq_true_eq] at h ⊢; exact ⟨lt, h⟩
    · split
      · split
        · exact hr
        · simp only [Memory.below, List.all_cons, Bool.and_eq_true, decide_eq_true_eq] at hr ⊢; exact ⟨lt, hr⟩
      · have := ih hr
        simp only [Memory.below, List.all_cons, Bool.and_eq_true, decide_eq_true_eq] at this ⊢
        exact ⟨ha, this⟩

/-- Two canonical memories that read alike everywhere are the same list. -/
theorem Memory.ext {m n : Memory} {lo : Nat} (hm : Memory.wfFrom lo m = true) (hn : Memory.wfFrom lo n = true)
    (h : ∀ j, Memory.read m j = Memory.read n j) : m = n := by
  induction m generalizing n lo with
  | nil =>
    cases n with
    | nil => rfl
    | cons c rest =>
      obtain ⟨b, w⟩ := c
      simp only [Memory.wfFrom, Bool.and_eq_true, bne_iff_ne] at hn
      have := h b
      simp only [Memory.read, if_true] at this
      exact absurd this.symm hn.1.2
  | cons c rest ih =>
    obtain ⟨a, v⟩ := c
    cases n with
    | nil =>
      simp only [Memory.wfFrom, Bool.and_eq_true, bne_iff_ne] at hm
      have := h a
      simp only [Memory.read, if_true] at this
      exact absurd this hm.1.2
    | cons d rest' =>
      obtain ⟨b, w⟩ := d
      simp only [Memory.wfFrom, Bool.and_eq_true, decide_eq_true_eq, bne_iff_ne] at hm hn
      have eq : a = b := by
        rcases Nat.lt_trichotomy a b with lt | eq | gt
        · have := h a
          have ne : a ≠ b := by omega
          simp only [Memory.read, if_true, ne, if_false] at this
          rw [Memory.read_below hn.2 (by omega)] at this
          exact absurd this hm.1.2
        · exact eq
        · have := h b
          have ne : b ≠ a := by omega
          simp only [Memory.read, if_true, ne, if_false] at this
          rw [Memory.read_below hm.2 (by omega)] at this
          exact absurd this.symm hn.1.2
      subst eq
      have vw : v = w := by have := h a; simpa [Memory.read] using this
      subst vw
      congr 1
      refine ih hm.2 hn.2 fun j => ?_
      have hj := h j
      simp only [Memory.read] at hj
      by_cases e : j = a
      · subst e
        rw [Memory.read_below hm.2 (by omega), Memory.read_below hn.2 (by omega)]
      · simpa [e] using hj

/-! ### Bits -/

theorem Memory.bit_nil (i : Nat) : Memory.bit [] i = false := by
  simp [Memory.bit, Memory.read]

/-- Writing one bit changes that bit only. -/
theorem Memory.bit_setBit {m : Memory} (h : m.wf = true) (i j : Nat) (v : Bool) :
    (m.setBit i v).bit j = if j = i then v else m.bit j := by
  have hi : i % 8 < 8 := Nat.mod_lt _ (by decide)
  have hj : j % 8 < 8 := Nat.mod_lt _ (by decide)
  simp only [Memory.bit, Memory.setBit]
  by_cases e : j / 8 = i / 8
  · rw [e, Memory.read_write_same m (i / 8) _ h]
    by_cases e' : j % 8 = i % 8
    · have eq : j = i := by omega
      subst eq
      cases v <;> simp [hj]
    · have ne : j ≠ i := by intro x; exact e' (by rw [x])
      cases v
      · simp [ne, hj]; omega
      · simp [ne, hj]; omega
  · have ne : j ≠ i := by intro x; exact e (by rw [x])
    rw [Memory.read_write_other m _ e]
    simp [ne]

theorem Memory.wf_setBit {m : Memory} (h : m.wf = true) (i : Nat) (v : Bool) : (m.setBit i v).wf = true :=
  Memory.wf_write _ _ h

theorem Memory.below_setBit {m : Memory} {n : Nat} (h : m.below n = true) {i : Nat} (lt : i / 8 < n) (v : Bool) :
    (m.setBit i v).below n = true :=
  Memory.below_write _ h lt

end Sys2Proof.Machine
end

