-- ==== Sys2Proof/Laws/PerInstr.lean ====
section
/-! SUPPORT. The statements made of every instruction of the table, one lemma per constructor. -/

namespace Sys2Proof.Laws.InTable

open Sys2Proof

/-- Some row of spec/opcode_table.json covers the word and carries the mnemonic. -/
def rowFor (f : Format) (w : Byte) (m : Mnemonic) : Bool :=
  (rowsOf f).any fun r => r.covers w && r.mnemonic == m

/-- A well-formed instruction has one word, which a row of its format under its own mnemonic covers and which decodes
to it; RESOLVE, the one FUNC row, has no word (R150). -/
def Statement (i : Instr) : Prop :=
  i.wf = true →
    match encode i with
    | [] => i.format = .func ∧ decode .func [] = .ok (i, [])
    | w :: more => more = [] ∧ rowFor i.format w i.mnemonic = true ∧ decode i.format [w] = .ok (i, [])

theorem normal : Statement .normal := fun _ => ⟨rfl, rfl, rfl⟩

theorem inverted : Statement .inverted := fun _ => ⟨rfl, rfl, rfl⟩

theorem toggle : Statement .toggle := fun _ => ⟨rfl, rfl, rfl⟩

theorem toggleSwitch : Statement .toggleSwitch := fun _ => ⟨rfl, rfl, rfl⟩

theorem toggleSwitchOn : Statement .toggleSwitchOn := fun _ => ⟨rfl, rfl, rfl⟩

theorem toggleSwitchOff : Statement .toggleSwitchOff := fun _ => ⟨rfl, rfl, rfl⟩

theorem povUp (hat : Hat) : Statement (.povUp hat) := by
  fin_cases hat <;> exact fun _ => ⟨rfl, rfl, rfl⟩

theorem povRight (hat : Hat) : Statement (.povRight hat) := by
  fin_cases hat <;> exact fun _ => ⟨rfl, rfl, rfl⟩

theorem povDown (hat : Hat) : Statement (.povDown hat) := by
  fin_cases hat <;> exact fun _ => ⟨rfl, rfl, rfl⟩

theorem povLeft (hat : Hat) : Statement (.povLeft hat) := by
  fin_cases hat <;> exact fun _ => ⟨rfl, rfl, rfl⟩

theorem modeReserved (byte : Byte) : Statement (.modeReserved byte) := by
  intro h
  refine ⟨rfl, ?_⟩
  revert byte
  decide

theorem unused : Statement .unused := fun _ => ⟨rfl, rfl, rfl⟩

theorem column : Statement .column := fun _ => ⟨rfl, rfl, rfl⟩

theorem row : Statement .row := fun _ => ⟨rfl, rfl, rfl⟩

theorem btnGnd : Statement .btnGnd := fun _ => ⟨rfl, rfl, rfl⟩

theorem btnVcc : Statement .btnVcc := fun _ => ⟨rfl, rfl, rfl⟩

theorem roleReserved (byte : Byte) : Statement (.roleReserved byte) := by
  intro h
  refine ⟨rfl, ?_⟩
  revert byte
  decide

theorem scanMatrix : Statement .scanMatrix := fun _ => ⟨rfl, rfl, rfl⟩

theorem appendShiftreg : Statement .appendShiftreg := fun _ => ⟨rfl, rfl, rfl⟩

theorem appendAxis : Statement .appendAxis := fun _ => ⟨rfl, rfl, rfl⟩

theorem appendDirect : Statement .appendDirect := fun _ => ⟨rfl, rfl, rfl⟩

theorem mergeEncoder : Statement .mergeEncoder := fun _ => ⟨rfl, rfl, rfl⟩

theorem advanceAll : Statement .advanceAll := fun _ => ⟨rfl, rfl, rfl⟩

theorem resolvePov : Statement .resolvePov := fun _ => ⟨rfl, rfl, rfl⟩

theorem rebuildBitmap : Statement .rebuildBitmap := fun _ => ⟨rfl, rfl, rfl⟩

theorem resolve : Statement .resolve := fun _ => ⟨rfl, rfl⟩

end Sys2Proof.Laws.InTable
end

