-- ==== Sys2Proof/Laws/Sequencer.lean ====
section
/-! SUPPORT. What each step of the scan cycle does to the state, in closed form where one is short, and what one step
of the machine is at each position of the sequencer (46_scan_orchestrator.md R162 to R176). -/

namespace Sys2Proof.Machine

open Sys2Proof.Safety

/-! ### Samples do not depend on the pin walk or on the column drive -/

theorem appendSample_frame (v : Bool) (s : State) :
    s.appendSample v = { s with sample := (s.appendSample v).sample, k := (s.appendSample v).k } :=
  appendAll_frame [v] s

theorem appendAll_pinIx (vs : List Bool) (p : Nat) (s : State) :
    appendAll vs { s with pinIx := p } = { appendAll vs s with pinIx := p } := by
  induction vs generalizing s with
  | nil => rfl
  | cons v vs ih =>
    have one : ({ s with pinIx := p } : State).appendSample v = { s.appendSample v with pinIx := p } := by
      unfold State.appendSample; simp only; split <;> rfl
    simp only [appendAll]
    rw [one, ih]

theorem appendSample_pinIx (v : Bool) (p : Nat) (s : State) :
    ({ s with pinIx := p } : State).appendSample v = { s.appendSample v with pinIx := p } :=
  appendAll_pinIx [v] p s

theorem appendAll_drive (vs : List Bool) (d : Option Nat) (s : State) :
    appendAll vs { s with columnDrive := d } = { appendAll vs s with columnDrive := d } := by
  induction vs generalizing s with
  | nil => rfl
  | cons v vs ih =>
    have one : ({ s with columnDrive := d } : State).appendSample v =
        { s.appendSample v with columnDrive := d } := by
      unfold State.appendSample; simp only; split <;> rfl
    simp only [appendAll]
    rw [one, ih]

theorem appendAll_full (vs : List Bool) {s : State} (full : s.params.N ≤ s.k) : appendAll vs s = s := by
  induction vs with
  | nil => rfl
  | cons v vs ih => simp only [appendAll]; rw [appendSample_full full, ih]

theorem appendAll_seq (vs : List Bool) (s : State) : (appendAll vs s).seq = s.seq := by rw [appendAll_frame]

/-! ### Step 1 -/

theorem pinsBelow_succ (s : State) (r : Instr) (n : Nat) :
    s.pinsBelow r (n + 1) = s.pinsBelow r n ++ (if s.roleAt n = r then [n] else []) := by
  unfold State.pinsBelow
  rw [List.range_succ, List.filter_append]
  congr 1
  by_cases h : s.roleAt n = r <;> simp [h]

/-- The samples of one column, pin `c`, over the rows below pin `n`. -/
def rowSamples (s : State) (c n : Nat) : List Bool :=
  (List.range (s.pinsBelow .row n).length).map fun r => !(s.matrixLevel (s.pinsBelow .column c).length r)

theorem rowSamples_succ (s : State) (c n : Nat) :
    rowSamples s c (n + 1) = rowSamples s c n ++
      (if s.roleAt n = .row then
        [!(s.matrixLevel (s.pinsBelow .column c).length (s.pinsBelow .row n).length)] else []) := by
  unfold rowSamples
  rw [pinsBelow_succ]
  by_cases h : s.roleAt n = .row
  · simp [h, List.range_succ]
  · simp [h]

/-- The row walk with a column driven. -/
theorem rowWalk_eq (s : State) (c : Nat) (h : s.columnDrive = some c) (n : Nat) :
    ∃ q, runOver rowVisit (List.range n) s = { appendAll (rowSamples s c n) s with pinIx := q } := by
  induction n with
  | zero => exact ⟨s.pinIx, rfl⟩
  | succ n ih =>
    obtain ⟨q, hq⟩ := ih
    rw [runOver_range_succ, hq, rowSamples_succ, appendAll_append]
    have hfr := appendAll_frame (rowSamples s c n) s
    generalize appendAll (rowSamples s c n) s = t at *
    have er : ({ t with pinIx := q } : State).roleAt n = s.roleAt n := by rw [hfr]; rfl
    unfold rowVisit
    rw [er]
    by_cases e : s.roleAt n = .row
    · rw [if_pos e, if_pos e]
      refine ⟨n, ?_⟩
      have e1 : runRow ({ t with pinIx := n } : State) =
          State.appendSample
            (!(s.matrixLevel (s.pinsBelow .column c).length (s.pinsBelow .row n).length))
            ({ t with pinIx := n } : State) := by
        have h1 : t.columnDrive = some c := by rw [hfr]; exact h
        unfold runRow
        show (match t.columnDrive with | none => _ | some c => _) = _
        rw [h1]
        have h2 : t.matrixLevel = s.matrixLevel := by rw [hfr]; rfl
        have h3 : t.pinsBelow = s.pinsBelow := by rw [hfr]; rfl
        show State.appendSample
          (!(t.matrixLevel (t.pinsBelow .column c).length (t.pinsBelow .row n).length)) _ = _
        rw [h2, h3]
      show runRow ({ t with pinIx := n } : State) = _
      rw [e1, appendSample_pinIx]
      rfl
    · rw [if_neg e, if_neg e]
      exact ⟨q, rfl⟩

/-- The samples of the column at pin `p`. -/
def columnSamples (s : State) (p : Nat) : List Bool :=
  (List.range (s.pinCount .row)).map fun r => !(s.matrixLevel (s.pinsBelow .column p).length r)

theorem runColumn_eq (s : State) :
    runColumn s = { appendAll (columnSamples s s.pinIx) s with columnDrive := none } := by
  unfold runColumn
  obtain ⟨q, hq⟩ := rowWalk_eq { s with columnDrive := some s.pinIx } s.pinIx rfl s.params.P
  simp only
  rw [hq]
  have e : rowSamples { s with columnDrive := some s.pinIx } s.pinIx s.params.P = columnSamples s s.pinIx := rfl
  rw [e, appendAll_drive]
  have hfr := appendAll_frame (columnSamples s s.pinIx) s
  generalize appendAll (columnSamples s s.pinIx) s = t at *
  rw [hfr]

theorem runColumn_frame (s : State) :
    runColumn s = { s with sample := (runColumn s).sample, k := (runColumn s).k, columnDrive := none } := by
  rw [runColumn_eq]
  have hfr := appendAll_frame (columnSamples s s.pinIx) s
  generalize appendAll (columnSamples s s.pinIx) s = t at *
  rw [hfr]

theorem runScanMatrix_eq (s : State) (h : s.columnDrive = none) :
    runScanMatrix s = { appendAll (matrixSamples s) s with pinIx := 0 } := by
  have key : ∀ n, ∃ q, runOver columnVisit (List.range n) s =
      { appendAll ((List.range (s.pinsBelow .column n).length).flatMap fun c =>
          (List.range (s.pinCount .row)).map fun r => !(s.matrixLevel c r)) s with pinIx := q } := by
    intro n
    induction n with
    | zero => exact ⟨s.pinIx, rfl⟩
    | succ n ih =>
      obtain ⟨q, hq⟩ := ih
      rw [runOver_range_succ, hq]
      have hs : ((List.range (s.pinsBelow .column (n + 1)).length).flatMap fun c =>
            (List.range (s.pinCount .row)).map fun r => !(s.matrixLevel c r)) =
          ((List.range (s.pinsBelow .column n).length).flatMap fun c =>
            (List.range (s.pinCount .row)).map fun r => !(s.matrixLevel c r)) ++
          (if s.roleAt n = .column then columnSamples s n else []) := by
        rw [pinsBelow_succ]
        by_cases e : s.roleAt n = .column
        · simp [e, List.range_succ, columnSamples]
        · simp [e]
      rw [hs, appendAll_append]
      generalize ((List.range (s.pinsBelow .column n).length).flatMap fun c =>
        (List.range (s.pinCount .row)).map fun r => !(s.matrixLevel c r)) = vs at *
      have hfr := appendAll_frame vs s
      generalize appendAll vs s = t at *
      have er : ({ t with pinIx := q } : State).roleAt n = s.roleAt n := by rw [hfr]; rfl
      unfold columnVisit
      rw [er]
      by_cases e : s.roleAt n = .column
      · rw [if_pos e, if_pos e]
        refine ⟨n, ?_⟩
        show runColumn ({ t with pinIx := n } : State) = _
        rw [runColumn_eq]
        have ec : columnSamples ({ t with pinIx := n } : State) n = columnSamples s n := by rw [hfr]; rfl
        show ({ appendAll (columnSamples ({ t with pinIx := n } : State) n) ({ t with pinIx := n } : State)
          with columnDrive := none } : State) = _
        rw [ec, appendAll_pinIx]
        have hfr' := appendAll_frame (columnSamples s n) t
        generalize appendAll (columnSamples s n) t = u at *
        rw [hfr', hfr]; simp [h]
      · rw [if_neg e, if_neg e]
        exact ⟨q, rfl⟩
  obtain ⟨q, hq⟩ := key s.params.P
  unfold runScanMatrix
  rw [hq]
  rfl

theorem runScanMatrix_frame (s : State) :
    runScanMatrix s = { s with
      sample := (runScanMatrix s).sample
      k := (runScanMatrix s).k
      columnDrive := (runScanMatrix s).columnDrive
      pinIx := 0 } := by
  have walk : ∀ l, runOver columnVisit l s = { s with
      sample := (runOver columnVisit l s).sample
      k := (runOver columnVisit l s).k
      columnDrive := (runOver columnVisit l s).columnDrive
      pinIx := (runOver columnVisit l s).pinIx } := by
    intro l
    refine runOver_keeps (P := fun t => t = { s with
      sample := t.sample, k := t.k, columnDrive := t.columnDrive, pinIx := t.pinIx })
      (f := columnVisit) ?_ l rfl
    intro n t ht
    unfold columnVisit
    split
    · rw [runColumn_frame]; rw [ht]
    · exact ht
  unfold runScanMatrix
  simp only
  rw [walk]

/-! ### Steps 2 to 5 and the latch -/

theorem runAppendShiftreg_eq (s : State) :
    runAppendShiftreg s = appendAll ((List.range s.cfg.srCount).map s.srLevel) s := by
  have walk : ∀ l (t : State), t = { s with sample := t.sample, k := t.k } →
      runOver (fun b s => s.appendSample (s.srLevel b)) l t = appendAll (l.map s.srLevel) t := by
    intro l
    induction l with
    | nil => intro t _; rfl
    | cons b l ih =>
      intro t ht
      simp only [runOver_cons, List.map_cons, appendAll]
      have e : t.srLevel b = s.srLevel b := by rw [ht]; rfl
      rw [e, ih]
      rw [appendSample_frame, ht]
  exact walk _ s rfl

theorem runAppendAxis_eq (s : State) :
    runAppendAxis s = appendAll ((List.range s.cfg.axisCount).map s.axLevel) s := by
  have walk : ∀ l (t : State), t = { s with sample := t.sample, k := t.k } →
      runOver (fun b s => s.appendSample (s.axLevel b)) l t = appendAll (l.map s.axLevel) t := by
    intro l
    induction l with
    | nil => intro t _; rfl
    | cons b l ih =>
      intro t ht
      simp only [runOver_cons, List.map_cons, appendAll]
      have e : t.axLevel b = s.axLevel b := by rw [ht]; rfl
      rw [e, ih]
      rw [appendSample_frame, ht]
  exact walk _ s rfl

theorem runAppendDirect_eq (s : State) :
    runAppendDirect s = { appendAll (directSamples s) s with
      pinIx := 0, slotCount := (appendAll (directSamples s) s).k } := by
  have walk : ∀ l (t : State), t = { s with sample := t.sample, k := t.k, pinIx := t.pinIx } →
      ∃ q, runOver directVisit l t = { appendAll (l.filterMap fun p =>
        if s.roleAt p = .btnGnd then some (!(s.pinLevel p))
        else if s.roleAt p = .btnVcc then some (s.pinLevel p) else none) t with pinIx := q } := by
    intro l
    induction l with
    | nil => intro t _; exact ⟨_, rfl⟩
    | cons p l ih =>
      intro t ht
      have e : t.roleAt p = s.roleAt p := by rw [ht]; rfl
      have e2 : t.pinLevel p = s.pinLevel p := by rw [ht]; rfl
      have key : ∀ v q, ∀ vs : List Bool,
          { appendAll vs ({ t with pinIx := p }.appendSample v) with pinIx := q } =
          { appendAll vs (t.appendSample v) with pinIx := q } := by
        intro v q vs
        rw [appendSample_pinIx, appendAll_pinIx]
      simp only [runOver_cons, List.filterMap_cons]
      by_cases h1 : s.roleAt p = .btnGnd
      · rw [if_pos h1]
        have hv : directVisit p t = ({ t with pinIx := p } : State).appendSample (!(s.pinLevel p)) := by
          unfold directVisit runBtnGnd
          rw [e, if_pos h1]
          show State.appendSample (!(t.pinLevel p)) _ = _
          rw [e2]
        rw [hv]
        obtain ⟨q, hq⟩ := ih (State.appendSample (!(s.pinLevel p)) { t with pinIx := p })
          (by rw [appendSample_frame]; rw [ht])
        exact ⟨q, by rw [hq]; exact key _ q _⟩
      · rw [if_neg h1]
        by_cases h2 : s.roleAt p = .btnVcc
        · rw [if_pos h2]
          have hv : directVisit p t = ({ t with pinIx := p } : State).appendSample (s.pinLevel p) := by
            unfold directVisit runBtnVcc
            rw [e, if_neg h1, if_pos h2]
            show State.appendSample (t.pinLevel p) _ = _
            rw [e2]
          rw [hv]
          obtain ⟨q, hq⟩ := ih (State.appendSample (s.pinLevel p) { t with pinIx := p })
            (by rw [appendSample_frame]; rw [ht])
          exact ⟨q, by rw [hq]; exact key _ q _⟩
        · rw [if_neg h2]
          have hv : directVisit p t = t := by unfold directVisit; rw [e, if_neg h1, if_neg h2]
          rw [hv]
          exact ih t ht
  obtain ⟨q, hq⟩ := walk (List.range s.params.P) s rfl
  unfold runAppendDirect
  rw [hq]
  rfl

theorem runMergeEncoder_frame (s : State) :
    runMergeEncoder s = { s with sample := (runMergeEncoder s).sample } := by
  unfold runMergeEncoder
  refine runOver_keeps (P := fun t => t = { s with sample := t.sample }) ?_ _ rfl
  intro n t ht
  unfold mergeSlot
  split
  · exact ht
  · rw [ht]

theorem runMergeEncoder_length (s : State) : (runMergeEncoder s).sample.length = s.sample.length := by
  refine runOver_field (fun t => t.sample.length) (f := mergeSlot) ?_ _ s
  intro n t
  simp only [mergeSlot]
  split <;> simp

theorem latchAll_frame (s : State) : s.latchAll = { s with slots := s.latchAll.slots } := by
  unfold State.latchAll
  refine runOver_keeps (P := fun t => t = { s with slots := t.slots }) ?_ _ rfl
  intro n t ht
  unfold State.latchSlot
  split
  · exact ht
  · rw [ht]

theorem latchAll_length (s : State) : s.latchAll.slots.length = s.slots.length := by
  refine runOver_field (fun t => t.slots.length) (f := State.latchSlot) ?_ _ s
  intro n t
  simp only [State.latchSlot]
  split <;> simp

/-! ### Steps 7 and 8 -/

theorem runResolvePov_eq (s : State) :
    runResolvePov s = { s with
      povCode := ⟨resolveMask s.povMask.h0, resolveMask s.povMask.h1, resolveMask s.povMask.h2,
        resolveMask s.povMask.h3⟩
      hatIx := 0 } := rfl

theorem runRebuildBitmap_frame (s : State) :
    runRebuildBitmap s = { s with outBitmap := (runRebuildBitmap s).outBitmap } := by
  unfold runRebuildBitmap
  refine runOver_keeps (P := fun t => t = { s with outBitmap := t.outBitmap }) ?_ _ rfl
  intro n t ht
  unfold packSlot
  split
  · exact ht
  · rw [ht]

theorem runRebuildBitmap_below (s : State) (h : s.slotCount ≤ s.params.N) :
    (runRebuildBitmap s).outBitmap.below s.params.bmBytes = true := by
  unfold runRebuildBitmap
  refine runOver_range_induct (P := fun _ t => t.outBitmap.below s.params.bmBytes = true) (f := packSlot)
    (s := { s with outBitmap := [] }) s.slotCount rfl ?_
  intro i t hi ht
  unfold packSlot
  split
  · exact ht
  · exact Memory.below_setBit ht (by unfold Params.bmBytes; omega) _

/-! ### One step of the machine, by position -/

theorem leave_last {s : State} (h : s.seq = .rebuildBitmap) : s.leave = { s.publish with seq := .idle } := by
  unfold State.leave; rw [h]

theorem leave_inner {s : State} {p : SeqPos} (h : s.seq = p) (ne : p ≠ .rebuildBitmap) :
    s.leave = { s with seq := p.after } := by
  unfold State.leave
  rw [h]
  cases p <;> first | rfl | exact absurd rfl ne

theorem fetch_at {s : State} {p : SeqPos} (h : s.seq = p) {w : BitVec 4} (hw : p.ordinal = some w) {i : Instr}
    (hi : decodeSeqStep w = .ok i) : s.fetch = some i := by
  unfold State.fetch; rw [h, hw]; simp only [hi]

/-- Everything one step can do. -/
theorem step_cases {s t : State} (h : step s = .next t) :
    (s.seq = .idle ∧ t = s.restStep) ∨ (s.seq = .scanMatrix ∧ t = (runScanMatrix s).leave) ∨
    (s.seq = .appendShiftreg ∧ t = (runAppendShiftreg s).leave) ∨
    (s.seq = .appendAxis ∧ t = (runAppendAxis s).leave) ∨
    (s.seq = .appendDirect ∧ t = (runAppendDirect s).leave) ∨
    (s.seq = .mergeEncoder ∧ t = (runMergeEncoder s).leave) ∨
    (s.seq = .latch ∧ t = s.latchAll.leave) ∨ (s.seq = .advanceAll ∧ t = (runAdvanceAll s).leave) ∨
    (s.seq = .resolvePov ∧ t = (runResolvePov s).leave) ∨
    (s.seq = .rebuildBitmap ∧ t = (runRebuildBitmap s).leave) := by
  unfold step State.fetch at h
  cases e : s.seq <;>
    simp [e, SeqPos.ordinal, decodeSeqStep, exec, execScanMatrix, execAppendShiftreg, execAppendAxis,
      execAppendDirect, execMergeEncoder, execAdvanceAll, execResolvePov, execRebuildBitmap] at h ⊢ <;>
    exact h.symm

theorem step_at {s u : State} {p : SeqPos} {i : Instr} (h : s.seq = p) (inner : p ≠ .rebuildBitmap)
    (hf : s.fetch = some i) (hx : exec i s = .next u) (hu : u.seq = s.seq) :
    step s = .next { u with seq := p.after } := by
  unfold step
  rw [hf]
  simp only [hx]
  rw [leave_inner (p := p) (by rw [hu, h]) inner]

theorem step_scanMatrix {s : State} (h : s.seq = .scanMatrix) :
    step s = .next { runScanMatrix s with seq := .appendShiftreg } :=
  step_at h (by decide) (fetch_at h rfl rfl) rfl (by rw [runScanMatrix_frame])

theorem step_appendShiftreg {s : State} (h : s.seq = .appendShiftreg) :
    step s = .next { runAppendShiftreg s with seq := .appendAxis } :=
  step_at h (by decide) (fetch_at h rfl rfl) rfl (by rw [runAppendShiftreg_eq, appendAll_seq])

theorem step_appendAxis {s : State} (h : s.seq = .appendAxis) :
    step s = .next { runAppendAxis s with seq := .appendDirect } :=
  step_at h (by decide) (fetch_at h rfl rfl) rfl (by rw [runAppendAxis_eq, appendAll_seq])

theorem step_appendDirect {s : State} (h : s.seq = .appendDirect) :
    step s = .next { runAppendDirect s with seq := .mergeEncoder } :=
  step_at h (by decide) (fetch_at h rfl rfl) rfl (by rw [runAppendDirect_eq]; exact appendAll_seq _ s)

theorem step_mergeEncoder {s : State} (h : s.seq = .mergeEncoder) :
    step s = .next { runMergeEncoder s with seq := .latch } :=
  step_at h (by decide) (fetch_at h rfl rfl) rfl (by rw [runMergeEncoder_frame])

theorem step_latch {s : State} (h : s.seq = .latch) : step s = .next { s.latchAll with seq := .advanceAll } := by
  have run : step s = .next s.latchAll.leave := by unfold step State.fetch; simp [h, SeqPos.ordinal]
  rw [run, leave_inner (p := .latch) (by rw [latchAll_frame]; exact h) (by decide)]
  rfl

theorem step_advanceAll {s : State} (h : s.seq = .advanceAll) :
    step s = .next { runAdvanceAll s with seq := .resolvePov } :=
  step_at h (by decide) (fetch_at h rfl rfl) rfl (by rw [runAdvanceAll_frame])

theorem step_resolvePov {s : State} (h : s.seq = .resolvePov) :
    step s = .next { runResolvePov s with seq := .rebuildBitmap } :=
  step_at h (by decide) (fetch_at h rfl rfl) rfl (by rw [runResolvePov_eq])

theorem step_rebuildBitmap {s : State} (h : s.seq = .rebuildBitmap) :
    step s = .next { (runRebuildBitmap s).publish with seq := .idle } := by
  unfold step
  rw [fetch_at h rfl rfl]
  show Host.Outcome.next (runRebuildBitmap s).leave = _
  rw [leave_last (by rw [runRebuildBitmap_frame]; exact h)]

/-- One more step of a run. -/
theorem run_succ (M : Host.Core) {s t : M.State} (n : Nat) (h : M.step s = .next t) : M.run (n + 1) s = M.run n t := by
  simp only [Host.Core.run, h]

end Sys2Proof.Machine
end

