-- ==== Sys2Proof/Tests/Slice0.lean ====
section
/-! SUPPORT. The model's own tests: ill-formed terms refused, words of the spec's encoding decoded, vectors of
spec/95_test_vectors.md run for one step, and for every statement of Certificates/Slice0/Obligations.lean that has
hypotheses a state that meets them. -/

namespace Sys2Proof.Tests

open Sys2Proof
open Sys2Proof.Machine
open Sys2Proof.Safety

/-! ### Well-formedness refuses -/

theorem test_wf_refuses_defined_byte_as_reserved_mode : Instr.wf (.modeReserved 0x05) = false := by decide

theorem test_wf_refuses_pov_byte_as_reserved_mode : Instr.wf (.modeReserved 0x1F) = false := by decide

theorem test_wf_refuses_defined_byte_as_reserved_role : Instr.wf (.roleReserved 0x04) = false := by decide

theorem test_wf_refuses_params_without_slots : Params.wf ⟨0, 1, 0, 0, .wrap⟩ = false := by decide

/-- Two slots, two pins, up to one shift-register bit and one axis bit. -/
def twoSlots : Params := ⟨2, 2, 1, 1, .wrap⟩

theorem test_wf_refuses_short_mode_table : Configuration.wf ⟨[0], 0, 0, [0, 0], 0, 0⟩ twoSlots = false := by decide

theorem test_wf_refuses_short_pin_table : Configuration.wf ⟨[0, 0], 0, 0, [0], 0, 0⟩ twoSlots = false := by decide

theorem test_wf_refuses_large_sr_count : Configuration.wf ⟨[0, 0], 0, 0, [0, 0], 2, 0⟩ twoSlots = false := by decide

theorem test_wf_refuses_large_axis_count : Configuration.wf ⟨[0, 0], 0, 0, [0, 0], 0, 2⟩ twoSlots = false := by decide

theorem test_reset_configuration_is_wf : Configuration.wf Configuration.atReset Params.atReset = true := by
  simp [Configuration.wf, Configuration.atReset, Params.atReset]

/-! ### Words written out from 30_encoding.md -/

/-- R60: layout S, `m[7:4]` = 0000, the kind in `m[3:0]`. -/
theorem test_decode_simple_modes :
    decodeMode 0b00000000 = .normal ∧ decodeMode 0b00000001 = .inverted ∧ decodeMode 0b00000010 = .toggle ∧
    decodeMode 0b00000011 = .toggleSwitch ∧ decodeMode 0b00000100 = .toggleSwitchOn ∧
    decodeMode 0b00000101 = .toggleSwitchOff := by decide

/-- R60, R61: layout P, `m[7:4]` = 0001, the hat in `m[3:2]`, the direction in `m[1:0]`. -/
theorem test_decode_pov_modes :
    decodeMode 0b00010000 = .povUp 0 ∧ decodeMode 0b00010101 = .povRight 1 ∧ decodeMode 0b00011010 = .povDown 2 ∧
    decodeMode 0b00011111 = .povLeft 3 := by decide

/-- R62, at both ends of the two reserved ranges. -/
theorem test_decode_reserved_modes :
    decodeMode 0x06 = .modeReserved 0x06 ∧ decodeMode 0x0F = .modeReserved 0x0F ∧
    decodeMode 0x20 = .modeReserved 0x20 ∧ decodeMode 0xFF = .modeReserved 0xFF := by decide

/-- R66, R67. -/
theorem test_decode_roles :
    decodeRole 0x00 = .unused ∧ decodeRole 0x01 = .column ∧ decodeRole 0x02 = .row ∧ decodeRole 0x03 = .btnGnd ∧
    decodeRole 0x04 = .btnVcc ∧ decodeRole 0x05 = .roleReserved 0x05 ∧ decodeRole 0xFF = .roleReserved 0xFF := by
  decide

/-- R68: the ordinals 1 to 8. -/
theorem test_decode_steps :
    decode .seqStep [1] = .ok (.scanMatrix, []) ∧ decode .seqStep [2] = .ok (.appendShiftreg, []) ∧
    decode .seqStep [3] = .ok (.appendAxis, []) ∧ decode .seqStep [4] = .ok (.appendDirect, []) ∧
    decode .seqStep [5] = .ok (.mergeEncoder, []) ∧ decode .seqStep [6] = .ok (.advanceAll, []) ∧
    decode .seqStep [7] = .ok (.resolvePov, []) ∧ decode .seqStep [8] = .ok (.rebuildBitmap, []) := by decide

theorem test_decode_refuses_other_ordinals :
    decode .seqStep [0] = .error (.noSuchStep 0) ∧ decode .seqStep [9] = .error (.noSuchStep 9) ∧
    decode .seqStep [0x16] = .error (.strayOrdinalBits 0x16) ∧ decode .mode8 [] = .error .truncated := by decide

theorem test_decode_resolve_has_no_word : decode .func [0x12] = .ok (.resolve, [0x12]) := by decide

theorem test_encode_pov :
    encode (.povRight 1) = [0x15] ∧ encode (.povLeft 3) = [0x1F] ∧ encode (.povDown 0) = [0x12] := by decide

theorem test_table_words :
    decodeTableWord 8 0x1A = some (.povDown 2) ∧ decodeTableWord 4 6 = some .advanceAll ∧
    decodeTableWord 4 9 = none ∧ decodeTableWord 0 0 = some .resolve := by decide

/-! ### Vectors of 95_test_vectors.md sections 2.1 to 2.7: one advance of slot 0 -/

/-- A slot record as the vectors write it. -/
def rec (pin prev cur pend : Bool) (last count : U32) : Slot := ⟨pin, false, prev, cur, pend, last, count⟩

/-- A state with that record as slot 0 at `now`, with these thresholds. -/
def stateWith (debounce hold : U32) (r : Slot) (now : U32) : State :=
  { State.resetOf twoSlots ⟨[0, 0], debounce, hold, [0, 0], 0, 0⟩ [] with
    slots := [r, Slot.reset]
    inp := { CycleInput.none with nowMs := now } }

/-- The vectors' usual thresholds, 50 and 100. -/
def usual : Slot → U32 → State := stateWith 50 100

/-- Slot 0 of an answer. -/
def slot0 (a : Answer) : Option Slot :=
  match a with
  | .next t => t.slots[0]?
  | .fault _ => none
  | .refused _ => none

/-- The masks of an answer. -/
def masks (a : Answer) : Option (Hats Mask) :=
  match a with
  | .next t => some t.povMask
  | .fault _ => none
  | .refused _ => none

/-- A4: the press commits at 51 ms, not before (A3). -/
theorem test_normal_commits_after_the_debounce_time :
    slot0 (exec .normal (usual (rec true false false true 1000 0) 1051)) = some (rec true true true false 1000 1) ∧
    slot0 (exec .normal (usual (rec true false false true 1000 0) 1050)) =
      some (rec true false false true 1000 0) := by decide

/-- A9: across the wrap of the clock; A6: a release adds 0. -/
theorem test_normal_wraps_and_releases :
    slot0 (exec .normal (usual (rec true false false true 0xFFFFFFF0 0) 0x23)) =
      some (rec true true true false 0xFFFFFFF0 1) ∧
    slot0 (exec .normal (usual (rec false true true true 2000 1) 2051)) =
      some (rec false false false false 2000 1) := by decide

/-- B1, B5: the effective sample is inverted, the stored one is not. -/
theorem test_inverted :
    slot0 (exec .inverted (usual (rec false false false false 0 0) 10)) = some (rec false false false true 10 0) ∧
    slot0 (exec .inverted (usual (rec true true true true 500 1) 551)) =
      some (rec true false false false 500 1) := by decide

/-- C8: the second press flips back; C4: the release keeps `current_state`. -/
theorem test_toggle_flips_and_releases :
    slot0 (exec .toggle (usual (rec true false true true 1300 1) 1351)) = some (rec true true false false 1300 2) ∧
    slot0 (exec .toggle (usual (rec false true true false 1000 1) 1200)) =
      some (rec false false true false 1000 1) := by decide

/-- C5: the release needs the debounce time; C9: the abort in the unreachable state. -/
theorem test_toggle_waits_and_aborts :
    slot0 (exec .toggle (usual (rec false true true false 1000 1) 1050)) = some (rec false true true false 1000 1) ∧
    slot0 (exec .toggle (usual (rec true true false true 1000 0) 1051)) =
      some (rec true true false false 1000 0) := by decide

/-- D9: the commit beats the auto-release; D4: the pulse ends and `prev_state` is kept. -/
theorem test_toggle_switch :
    slot0 (exec .toggleSwitch (usual (rec true false false true 1000 0) 1150)) =
      some (rec true true true false 1000 1) ∧
    slot0 (exec .toggleSwitch (usual (rec true true true false 1000 1) 1101)) =
      some (rec true true false false 1000 1) := by decide

/-- D10: with the hold time below the debounce time the window is killed. -/
theorem test_toggle_switch_window_killed :
    slot0 (exec .toggleSwitch (stateWith 50 20 (rec true false false true 1000 0) 1021)) =
      some (rec true false false false 1000 0) := by decide

/-- E2, E5: commits on the rise; the fall is absorbed by the auto-release. -/
theorem test_toggle_switch_on :
    slot0 (exec .toggleSwitchOn (usual (rec true false false true 1000 0) 1051)) =
      some (rec true true true false 1000 1) ∧
    slot0 (exec .toggleSwitchOn (usual (rec false true false false 1000 1) 2000)) =
      some (rec false false false false 1000 1) := by decide

/-- F1, F4: arms itself by the auto-release; commits on the fall. -/
theorem test_toggle_switch_off :
    slot0 (exec .toggleSwitchOff (usual (rec true false false false 0 0) 101)) =
      some (rec true true false false 0 0) ∧
    slot0 (exec .toggleSwitchOff (usual (rec false true false true 1000 0) 1051)) =
      some (rec false false true false 1000 1) := by decide

/-- G5: Up of hat 0 sets bit 8; `current_state` stays 0. -/
theorem test_pov_up :
    slot0 (exec (.povUp 0) (usual (rec true false false true 1000 0) 1051)) =
      some (rec true true false false 1000 1) ∧
    masks (exec (.povUp 0) (usual (rec true false false true 1000 0) 1051)) = some ⟨8, 0, 0, 0⟩ := by decide

/-- G3: Right of hat 1 clears its own bit only. -/
theorem test_pov_right_clears_one_bit :
    masks (exec (.povRight 1) { usual (rec false true false true 2000 1) 2051 with povMask := ⟨0, 0b1100, 0, 0⟩ }) =
      some ⟨0, 0b1000, 0, 0⟩ := by decide

/-- G7: Down of hat 0. -/
theorem test_pov_down :
    masks (exec (.povDown 0) { usual (rec false true false true 1000 3) 1051 with povMask := ⟨15, 0, 0, 0⟩ }) =
      some ⟨0b1101, 0, 0, 0⟩ := by decide

/-- G6: Left of hat 3. -/
theorem test_pov_left :
    masks (exec (.povLeft 3) { usual (rec true false false true 1000 0) 1051 with povMask := ⟨0, 0, 0, 6⟩ }) =
      some ⟨0, 0, 0, 7⟩ := by decide

/-- The unknown modes of section 2.7. -/
theorem test_mode_reserved_writes_nothing :
    slot0 (exec (.modeReserved 0x07) (usual (rec true false false true 1000 5) 5000)) =
      some (rec true false false true 1000 5) := by decide

/-- A10, A11: the counter at its maximum. -/
theorem test_press_count_overflow :
    addPress .wrap 0xFFFFFFFF true = 0 ∧ addPress .saturate 0xFFFFFFFF true = 0xFFFFFFFF ∧
    addPress .saturate 7 true = 8 := by decide

/-! ### Roles and steps -/

/-- Pins 0, 1 are columns, 2, 3 rows, 4 a ground button, 5 a supply button, 6 has a reserved role. -/
def matrixState (n : Nat) : State :=
  { State.resetOf ⟨n, 7, 1, 1, .wrap⟩ ⟨List.replicate n 0, 50, 100, [1, 1, 2, 2, 3, 4, 7], 1, 1⟩ [] with
    inp :=
      { nowMs := 5
        matrix := [[false, true], [true, false]]
        sr := [true]
        ax := [false]
        pin := [true, true, true, true, false, true, true]
        enc := [none, some true] } }

/-- What a step leaves of the staging array and the cursor. -/
def assigned (a : Answer) : Option (List Bool × Nat) :=
  match a with
  | .next t => some (t.sample, t.k)
  | .fault _ => none
  | .refused _ => none

/-- R163, S3: column-major pairs, a low row being active, dropped past N. -/
theorem test_scan_matrix :
    assigned (exec .scanMatrix (matrixState 5)) = some ([true, false, false, true, false], 4) ∧
    assigned (exec .scanMatrix (matrixState 3)) = some ([true, false, false], 3) := by decide

theorem test_column_samples_its_rows :
    assigned (exec .column { matrixState 5 with pinIx := 1 }) = some ([false, true, false, false, false], 2) := by
  decide

theorem test_row_samples_the_driven_column :
    assigned (exec .row { matrixState 5 with columnDrive := some 0, pinIx := 2 }) =
      some ([true, false, false, false, false], 1) ∧
    assigned (exec .row { matrixState 5 with pinIx := 2 }) = some ([false, false, false, false, false], 0) := by
  decide

theorem test_append_shiftreg : assigned (exec .appendShiftreg (matrixState 2)) = some ([true, false], 1) := by decide

theorem test_append_axis :
    assigned (exec .appendAxis { matrixState 2 with sample := [true, true] }) = some ([false, true], 1) := by decide

/-- R167: the ground button reads low, the supply button high; both are active. The reserved role has no slot (S6). -/
theorem test_append_direct :
    assigned (exec .appendDirect (matrixState 3)) = some ([true, true, false], 2) ∧
    assigned (exec .btnGnd { matrixState 3 with pinIx := 4 }) = some ([true, false, false], 1) ∧
    assigned (exec .btnVcc { matrixState 3 with pinIx := 4 }) = some ([false, false, false], 1) := by decide

theorem test_roles_without_a_slot :
    assigned (exec .unused (matrixState 2)) = some ([false, false], 0) ∧
    assigned (exec (.roleReserved 7) (matrixState 2)) = some ([false, false], 0) := by decide

/-- S7: the encoder replaces the sample of its slot. -/
theorem test_merge_encoder :
    assigned (exec .mergeEncoder { matrixState 3 with slotCount := 2 }) = some ([false, true, false], 0) := by decide

/-- S8: the latch saves the old sample. -/
theorem test_latch :
    slot0 (step { matrixState 2 with
      seq := .latch, slotCount := 1, slots := [⟨true, false, true, false, true, 9, 4⟩, Slot.reset] }) =
      some ⟨false, true, true, false, true, 9, 4⟩ := by decide

theorem test_advance_all_reads_the_mode_byte :
    slot0 (exec .advanceAll { usual (rec true false true true 1300 1) 1351 with
      slotCount := 1, cfg := ⟨[0x02, 0], 50, 100, [0, 0], 0, 0⟩ }) = some (rec true true false false 1300 2) := by
  decide

/-- The codes of an answer. -/
def codesOf (a : Answer) : Option (Hats Byte) :=
  match a with
  | .next t => some t.povCode
  | .fault _ => none
  | .refused _ => none

/-- Section 2.8: N, invalid, NW, SE. -/
theorem test_resolve :
    codesOf (exec .resolvePov { matrixState 2 with povMask := ⟨8, 10, 9, 6⟩ }) = some ⟨0x00, 0xFF, 0x07, 0x03⟩ ∧
    codesOf (exec .resolve { matrixState 2 with povMask := ⟨8, 3, 9, 6⟩, hatIx := 1 }) =
      some ⟨0xFF, 0x05, 0xFF, 0xFF⟩ := by decide

/-- The bitmap of an answer. -/
def bitmapOf (a : Answer) : Option Memory :=
  match a with
  | .next t => some t.outBitmap
  | .fault _ => none
  | .refused _ => none

/-- R176: slot 1 is bit 1, and nothing of the old bitmap survives. -/
theorem test_rebuild_bitmap :
    bitmapOf (exec .rebuildBitmap { matrixState 2 with
      slotCount := 2, slots := [Slot.reset, rec true true true false 0 1], outBitmap := [(0, 0x01)] }) =
      some [(0, 0x02)] := by decide

theorem test_bitmap_bit_order : Memory.setBit (Memory.setBit [] 9 true) 0 true = [(0, 0x01), (1, 0x02)] := by decide

theorem test_shift_register_bytes : srBitsOfBytes [0x05] = [true, false, true, false, false, false, false, false] := by
  decide

/-! ### Placing a word -/

/-- The position a step reaches. -/
def seqOf (a : Answer) : Option SeqPos :=
  match a with
  | .next t => some t.seq
  | .fault _ => none
  | .refused _ => none

theorem test_placed_step_runs : seqOf (step (State.reset.withFetchWord 4 6)) = some .resolvePov := by decide

theorem test_placed_mode_runs :
    (State.reset.withFetchWord 8 0x15).modeAt 0 = some (.povRight 1) ∧
    (State.reset.withFetchWord 8 0x15).fetch = some .advanceAll := by decide

theorem test_placed_function_runs : (State.reset.withFetchWord 0 0).fetch = some .resolvePov := by decide

/-- R220 and log 27: a reset inside a cycle leaves the block at rest, with its configuration and schedule. -/
theorem test_power_on_inside_a_cycle :
    (matrixState 2).seq = .idle ∧ ({ matrixState 2 with seq := .latch, cycles := 3 } : State).powerOn =
      { matrixState 2 with inp := CycleInput.none, cycles := 3 } := by decide

/-! ### Witnesses: states that meet the hypotheses of the statements -/

/-- At rest with a request pending: slot 0 NORMAL and slot 1 POV_UP of hat 0, both pressed and settled. -/
def pressed : State :=
  { State.resetOf twoSlots ⟨[0x00, 0x10], 50, 100, [4, 4], 0, 0⟩
      [{ CycleInput.none with nowMs := 5000, pin := [true, true] }] with
    slots := [⟨true, true, true, true, false, 1000, 1⟩, ⟨true, true, true, false, false, 1000, 1⟩]
    povMask := ⟨8, 0, 0, 0⟩
    povCode := ⟨0x00, 0xFF, 0xFF, 0xFF⟩
    outBitmap := [(0, 0x01)]
    slotCount := 2
    shownBitmap := [(0, 0x01)]
    shownCode := ⟨0x00, 0xFF, 0xFF, 0xFF⟩ }

/-- The record of slot 0 of `usual`, `pending` as given, with an active sample. -/
def risen (pend : Bool) : Slot := rec true false false pend 1000 0

/-- The bits of one listed byte 0x01. -/
theorem bit_of_one (i : Nat) : Memory.bit [(0, 0x01)] i = decide (i = 0) := by
  have e : ([(0, 0x01)] : Memory) = Memory.setBit [] 0 true := by decide
  rw [e, Memory.bit_setBit rfl, Memory.bit_nil]
  by_cases h : i = 0 <;> simp [h]

theorem pressed_bitmap_ok : BitmapOk twoSlots [(0, 0x01)] where
  canonical := by decide
  inRange := by decide
  padZero := by
    intro i h
    rw [bit_of_one]
    have : twoSlots.N = 2 := rfl
    simp; omega

theorem meets_machine_invariant : MachineInv pressed where
  paramsOk := by decide
  configOk := by decide
  slotsLength := rfl
  sampleLength := rfl
  cursor := by decide
  count := by decide
  noDrive := rfl
  slotWalkAtRest := rfl
  pinWalkAtRest := rfl
  hatWalkAtRest := rfl
  bitmapOk := pressed_bitmap_ok
  shownOk := pressed_bitmap_ok
  codes := by intro h; fin_cases h <;> first | exact Or.inr rfl | exact Or.inl (by decide)
  shownCodes := by intro h; fin_cases h <;> first | exact Or.inr rfl | exact Or.inl (by decide)
  shownAtRest := fun _ => ⟨rfl, rfl⟩
  codesFollow := by intro _ h; fin_cases h <;> rfl

theorem pressed_modes (i : Nat) :
    pressed.modeAt i = if i = 0 then some .normal else if i = 1 then some (.povUp 0) else none := by
  rcases i with _ | _ | i
  · rfl
  · rfl
  · simp [pressed, State.modeAt, State.resetOf]

theorem meets_mode_invariant : ModeInv pressed where
  legal := by
    intro i m r hm hr
    rw [pressed_modes] at hm
    rcases i with _ | _ | i
    · cases hm; cases hr
      simp [SlotLegal, povOwner]
    · cases hm; cases hr
      simp [SlotLegal, povOwner]
    · simp [pressed, State.resetOf] at hr
  soleOwner := by
    intro i r h d hr ho _
    unfold Owns at ho
    rw [pressed_modes] at ho
    rcases i with _ | _ | i
    · cases ho
    · cases ho; cases hr; decide
    · simp [pressed, State.resetOf] at hr
  unowned := by
    intro h d hd none
    have key : ∀ (h : Hat) (e : Fin 4), ¬(h = 0 ∧ e = 0) → pressed.povMask.get h &&& weight e.val = 0 := by decide
    refine key h ⟨d, hd⟩ ?_
    rintro ⟨rfl, e⟩
    have : d = 0 := congrArg Fin.val e
    subst this
    exact none 1 rfl
  quietBits := by
    intro i m hm hq
    rw [pressed_modes] at hm
    have ne : i ≠ 0 := by
      rintro rfl
      cases hm
      rcases hq with h | ⟨b, h⟩ <;> cases h
    have bit : Memory.bit [(0, 0x01)] i = false := by rw [bit_of_one]; simp [ne]
    exact ⟨bit, bit⟩

theorem meets_assignment_invariant : AssignInv pressed where
  cursorOk := trivial
  count := Or.inr (by decide)
  untouched := by
    intro i r hi hr
    have two : assignedCount pressed = 2 := by decide
    rw [two] at hi
    have lt := (List.getElem?_eq_some_iff.mp hr).1
    have : pressed.slots.length = 2 := rfl
    omega

theorem meets_StepKeeps : ∃ t, step pressed = .next t ∧ t.seq = .scanMatrix := ⟨_, rfl, rfl⟩

theorem meets_ResetMeetsTheInvariants :
    Params.wf twoSlots = true ∧ Configuration.wf ⟨[0, 0], 50, 100, [4, 4], 1, 1⟩ twoSlots = true := by decide

theorem meets_ResetLeavesTheSpecValues :
    (State.resetOf twoSlots ⟨[0, 0], 50, 100, [4, 4], 1, 1⟩ []).slots[1]? = some Slot.reset ∧
    pressed.params = twoSlots := ⟨rfl, rfl⟩

theorem meets_TenStepsRunOneScanCycle :
    MachineInv pressed ∧ pressed.seq = .idle ∧ pressed.stimulus.length = 1 ∧ assignedCount pressed = 2 ∧
    pressed.slots[1]?.isSome = true := ⟨meets_machine_invariant, by decide⟩

/-- The cycle's inputs with the request of `pressed` accepted. -/
def pressedCycle : State :=
  { pressed with
    stimulus := [], inp := { CycleInput.none with nowMs := 5000, pin := [true, true] }, cycles := 1 }

theorem meets_SettledCycleIsIdempotent (i : Nat) (r : Slot) (m : Instr) (_ : i < assignedCount pressedCycle)
    (hr : pressed.slots[i]? = some r) (hm : pressed.modeAt i = some m) : Settled m (latched pressedCycle i r) := by
  have s0 : latchedSample pressedCycle 0 = some true := by decide
  have s1 : latchedSample pressedCycle 1 = some true := by decide
  rw [pressed_modes] at hm
  rcases i with _ | _ | i
  · cases hm; cases hr
    simp [Settled, latched, s0, Qualifies, SwitchMode]
  · cases hm; cases hr
    simp [Settled, latched, s1, Qualifies, SwitchMode]
  · simp [pressed, State.resetOf] at hr

theorem pressed_bitmap_shows : BitmapShows pressed (assignedCount pressedCycle) := by
  have two : assignedCount pressedCycle = 2 := by decide
  intro i r hr
  rw [two]
  show Memory.bit [(0, 0x01)] i = _
  rw [bit_of_one]
  rcases i with _ | _ | i
  · cases hr; rfl
  · cases hr; rfl
  · simp [pressed, State.resetOf] at hr

theorem meets_DecodeOfEncodeIsTheInstruction :
    (Instr.modeReserved 0x20).wf = true ∧ (Instr.roleReserved 0x05).wf = true ∧ Instr.resolve.wf = true := by decide

theorem meets_EncodeOfDecodeIsTheWord :
    decode .mode8 [0x1F, 0x00] = .ok (.povLeft 3, [0x00]) ∧ decode .func [] = .ok (.resolve, []) := by decide

theorem meets_StepRunsTheDecodedInstruction :
    ({ pressed with seq := .advanceAll } : State).seq.ordinal = some 6 ∧
    ({ pressed with seq := .scanMatrix } : State).seq.ordinal = some 1 ∧
    ({ pressed with seq := .rebuildBitmap } : State).seq.ordinal = some 8 := by decide

/-- A step from each of the nine positions of a cycle. -/
theorem meets_StepsRunInFixedOrder :
    seqOf (step { pressed with seq := .scanMatrix }) = some .appendShiftreg ∧
    seqOf (step { pressed with seq := .appendShiftreg }) = some .appendAxis ∧
    seqOf (step { pressed with seq := .appendAxis }) = some .appendDirect ∧
    seqOf (step { pressed with seq := .mergeEncoder }) = some .latch ∧
    seqOf (step { pressed with seq := .latch }) = some .advanceAll ∧
    seqOf (step { pressed with seq := .advanceAll }) = some .resolvePov ∧
    seqOf (step { pressed with seq := .resolvePov }) = some .rebuildBitmap ∧
    seqOf (step { pressed with seq := .rebuildBitmap }) = some .idle := by decide

theorem meets_StepsRunInFixedOrder_step4 :
    seqOf (step { pressed with seq := .appendDirect }) = some .mergeEncoder := rfl

theorem meets_RestWaitsForARequest :
    pressed.seq = .idle ∧ pressed.stimulus.length = 1 ∧ State.reset.seq = .idle ∧ State.reset.stimulus = [] :=
  ⟨rfl, rfl, rfl, rfl⟩

theorem meets_RequestWhileBusyIsIgnored :
    ({ pressed with seq := .latch } : State).seq ≠ .idle ∧ pressed.seq = .idle := by decide

/-- An assigned slot and an unassigned one. -/
theorem meets_LatchTakesTheSamples :
    ({ pressed with seq := .latch, slotCount := 1 } : State).seq = .latch ∧ 1 ≤ pressed.sample.length ∧
    pressed.slots[0]?.isSome = true ∧ pressed.sample[0]? = some false ∧ pressed.slots[1]?.isSome = true := by decide

/-- The clock at and below `time_last`: the two clauses do not meet. -/
theorem meets_ComparatorsAreStrictAndWrap :
    (1000#32).toNat ≤ (1000#32).toNat ∧ (999#32).toNat < (1000#32).toNat ∧ elapsedMs 999 1000 = 2 ^ 32 - 1 ∧
    elapsedMs 1000 1000 = 0 := by decide

theorem meets_slotHere :
    (usual (risen true) 1051).slotHere = some (risen true) ∧
    ({ usual (risen true) 1051 with slotIx := 2 } : State).slotHere = none := by decide

theorem meets_PovModesFollowTheirChain :
    ((Instr.povRight 2, 1) : Instr × Nat) ∈
      [(Instr.povUp 2, 0), (Instr.povRight 2, 1), (Instr.povDown 2, 2), (Instr.povLeft 2, 3)] := by decide

theorem meets_AdvanceReturnsItsTriple :
    pressed.slots[1]?.isSome = true ∧ pressed.modeAt 1 = some (.povUp 0) := by decide

theorem meets_AdvanceFrame :
    (Instr.povUp 0).format = .mode8 ∧ ∃ t, exec (.povUp 0) { pressed with slotIx := 1 } = .next t := ⟨rfl, _, rfl⟩

/-- A commit that changes `current_state`, an auto-release that does, and an open while the hold time is over (D1). -/
theorem meets_CurrentStateChangesOnlyInCommitOrAutoRelease :
    (usual (risen true) 1051).slotHere = some (risen true) ∧
    slot0 (exec .normal (usual (risen true) 1051)) = some (rec true true true false 1000 1) ∧
    (rec true true true false 1000 1).currentState ≠ (risen true).currentState ∧
    slot0 (exec .toggleSwitch (usual (rec true true true false 1000 1) 1101)) =
      some (rec true true false false 1000 1) ∧
    slot0 (exec .toggleSwitch (usual (rec false true true false 1000 1) 1101)) =
      some (rec false true true true 1101 1) := by decide

/-- An open, a commit, TOGGLE's release and an auto-release, each at the first time it can execute. -/
theorem meets_DynamicFieldsHaveTheirWriters :
    slot0 (exec .normal (usual (risen false) 1000)) = some (rec true false false true 1000 0) ∧
    slot0 (exec .normal (usual (risen true) 1051)) = some (rec true true true false 1000 1) ∧
    slot0 (exec .toggle (usual (rec false true true false 1000 1) 1051)) =
      some (rec false false true false 1000 1) ∧
    slot0 (exec .toggleSwitchOn (usual (rec false true true false 1000 1) 1101)) =
      some (rec false false false false 1000 1) := by decide

theorem meets_OpenWindowIgnoresTheSample :
    Instr.toggle.format = .mode8 ∧ ¬ SwitchMode .toggle ∧ (risen true).pending = true ∧
    debounceOver (usual (risen true) 1050).cfg 1050 (risen true) = false ∧
    (stateWith 0xFFFFFFFF 100 (risen true) 999).cfg.debounceMs = 0xFFFFFFFF#32 := by
  refine ⟨rfl, ?_, rfl, by decide, rfl⟩
  rintro (h | h | h) <;> cases h

theorem meets_CleanPressCommitsOnce :
    (usual (risen false) 0).slotHere = some (risen false) ∧ (risen false).pending = false ∧
    (risen false).prevState = false ∧
    ∃ t ∈ [1020#32, 1051], (usual (risen false) 0).cfg.debounceMs.toNat < elapsedMs t 1000 := by
  refine ⟨by decide, rfl, rfl, 1051, by decide, by decide⟩

theorem meets_TwoTogglePressesFlipTwice :
    (usual (risen false) 0).slotHere = some (risen false) ∧
    (∃ t ∈ [1051#32], (usual (risen false) 0).cfg.debounceMs.toNat < elapsedMs t 1000) ∧
    (∃ t ∈ [1200#32], (usual (risen false) 0).cfg.debounceMs.toNat < elapsedMs t 1000) ∧
    (∃ t ∈ [1351#32], (usual (risen false) 0).cfg.debounceMs.toNat < elapsedMs t 1300) := by
  refine ⟨by decide, ⟨_, List.mem_cons_self .., by decide⟩, ⟨_, List.mem_cons_self .., by decide⟩,
    ⟨_, List.mem_cons_self .., by decide⟩⟩

/-- The first time at which the pulse can end. -/
theorem meets_SwitchPulseEndsByItself :
    SwitchMode .toggleSwitch ∧
    holdOver (usual (rec true true true false 1000 1) 1101).cfg 1101 (rec true true true false 1000 1) = true ∧
    ¬ Qualifies .toggleSwitch (rec true true true false 1000 1) := by
  refine ⟨Or.inl rfl, by decide, ?_⟩
  simp [Qualifies, rec]

/-- Both comparators true, and the hold time over before the debounce time. -/
theorem meets_HoldBelowDebounceKillsTheWindow :
    Qualifies .toggleSwitchOn (risen true) ∧
    debounceOver (usual (risen true) 1150).cfg 1150 (risen true) = true ∧
    holdOver (stateWith 50 20 (risen true) 1021).cfg 1021 (risen true) = true ∧
    debounceOver (stateWith 50 20 (risen true) 1021).cfg 1021 (risen true) = false := by
  refine ⟨⟨rfl, rfl⟩, by decide, by decide, by decide⟩

theorem meets_GlitchNeverCounts :
    (rec false false false true 1000 0).pending = true ∧ ¬ Qualifies .normal (rec false false false true 1000 0) ∧
    debounceOver (usual (rec false false false true 1000 0) 1051).cfg 1051 (rec false false false true 1000 0) =
      true := by
  refine ⟨rfl, ?_, by decide⟩
  simp [Qualifies, rec]

/-- A switch-mode pulse that is active when the window aborts: the hold time is not over, so it stays active. -/
theorem meets_GlitchNeverCounts_pulse :
    SwitchMode .toggleSwitch ∧ ¬ Qualifies .toggleSwitch (rec true true true true 1000 1) ∧
    holdOver (usual (rec true true true true 1000 1) 1051).cfg 1051 (rec true true true true 1000 1) = false ∧
    slot0 (exec .toggleSwitch (usual (rec true true true true 1000 1) 1051)) =
      some (rec true true true false 1000 1) := by
  refine ⟨Or.inl rfl, ?_, by decide, by decide⟩
  simp [Qualifies, rec]

theorem meets_SettledSlotStaysSettled :
    Settled .toggleSwitch (rec true true false false 1000 1) ∧ Settled (.modeReserved 7) (rec true false false false 0 0) := by
  simp [Settled, Qualifies, SwitchMode, rec]

/-- Room for one more slot, and none. -/
theorem meets_DirectPinsTakeASlot :
    (matrixState 2).k < (matrixState 2).params.N ∧ (matrixState 2).params.N ≤ ({ matrixState 2 with k := 2 } : State).k ∧
    (matrixState 2).inp.pin[6]? = some true := by decide

theorem meets_RowSamplesTheDrivenColumn :
    (matrixState 2).columnDrive = none ∧ ({ matrixState 2 with columnDrive := some 1 } : State).columnDrive = some 1 ∧
    (matrixState 2).k < (matrixState 2).params.N ∧ (matrixState 2).params.N ≤ ({ matrixState 2 with k := 2 } : State).k ∧
    (matrixState 2).inp.matrix[((matrixState 2).pinsBelow .column 1).length]? = some [true, false] ∧
    ([true, false] : List Bool)[((matrixState 2).pinsBelow .row 3).length]? = some false := by decide

/-- The premises of the statements about a column and about steps 1 to 4, with room and at the bound. -/
theorem meets_assignment_premises :
    (matrixState 2).k ≤ (matrixState 2).params.N ∧ (matrixState 2).sample.length = (matrixState 2).params.N ∧
    (matrixState 2).columnDrive = none ∧ ({ matrixState 2 with k := 2 } : State).k ≤ 2 ∧
    (matrixState 2).inp.sr[0]? = some true ∧ (matrixState 2).inp.ax[0]? = some false := by decide

theorem meets_FullTableDropsInputs :
    (matrixState 2).params.N ≤ ({ matrixState 2 with k := 2 } : State).k ∧ (matrixState 2).columnDrive = none ∧
    (matrixState 2).pinIx = 0 := by decide

theorem meets_MergeEncoderReplacesSamples :
    ({ matrixState 2 with slotCount := 2 } : State).slotCount ≤ (matrixState 2).sample.length ∧
    (matrixState 2).encAt 1 = some true ∧ (matrixState 2).encAt 0 = none ∧ (matrixState 2).encAt 2 = none := by decide

theorem meets_AdvanceAllAdvancesEverySlot :
    1 < pressed.slotCount ∧ pressed.slots[1]?.isSome = true ∧ pressed.modeAt 1 = some (.povUp 0) ∧
    pressed.slotCount ≤ 2 ∧ pressed.modeAt 2 = none := by decide

theorem meets_RebuildBitmapPacksEverySlot :
    pressed.slotCount ≤ pressed.slots.length ∧ 1 < pressed.slotCount ∧ pressed.slots[1]?.isSome = true ∧
    pressed.slotCount ≤ 2 := by decide

theorem meets_AdvanceWithoutASlotWritesNothing :
    (Instr.povLeft 3).format = .mode8 ∧ ({ pressed with slotIx := 2 } : State).slotHere = none := by decide

theorem meets_ResolveWritesItsHatsCode : (1 : Hat) ≠ ({ pressed with hatIx := 0 } : State).hatIx := by decide

/-- A memory with one listed byte, a write that removes it, and the result of step 8. -/
theorem meets_BitmapKeepsItsCanonicalForm :
    Memory.wf [(0, 0x01)] = true ∧ Memory.write [(0, 0x01)] 0 0 = [] ∧
    bitmapOf (exec .rebuildBitmap { pressed with outBitmap := [(0, 0xFF)] }) = some [(0, 0x01)] := by decide

/-- A step inside a cycle, and the step that ends one. -/
theorem meets_whole_machine_rules :
    (∃ t, step { pressed with seq := .latch } = .next t) ∧ (∃ t, step { pressed with seq := .advanceAll } = .next t) ∧
    (∃ t, step { pressed with seq := .rebuildBitmap } = .next t) := ⟨⟨_, rfl⟩, ⟨_, rfl⟩, ⟨_, rfl⟩⟩

end Sys2Proof.Tests
end

namespace Sys2Proof.Proofs

open Sys2Proof.Machine
open Sys2Proof.Safety

/-! ### The comparators and the counter are the spec's (R81, R17) -/

theorem deb_eq_debounceOver (c : Configuration) (now : U32) (r : Slot) : deb c now r = debounceOver c now r := by
  rw [Bool.eq_iff_iff, deb, gtU_iff, elapsed_toNat, debounceOver, decide_eq_true_iff, elapsedMs]

theorem addPress_eq_countPlus (o : Overflow) (n : U32) (x : Bool) : addPress o n x = countPlus o n x := by
  have succ : BitVec.ofNat 32 (n.toNat + 1) = n + 1 := by simp [BitVec.ofNat_add]
  have top : n = 0xFFFFFFFF#32 ↔ n.toNat = 2 ^ 32 - 1 := BitVec.toNat_inj.symm
  cases x with
  | false => simp [countPlus]
  | true => cases o <;> simp only [addPress, countPlus, succ, top] <;> simp

@[simp] theorem differs_iff (smp prev : Bool) : differs smp prev = true ↔ smp ≠ prev := by
  simp [differs]

/-! ### The commit arm (R87, R88) -/

/-- R88: where the extra arm is no commit, the chain commits exactly under the commit guard. -/
theorem chooseArm_committed_iff {pending q expired g : Bool} {extra : Arm} (noCommit : extra ≠ .commits) :
    (chooseArm pending q expired g extra).committed = true ↔ pending = true ∧ q = true ∧ expired = true := by
  rw [Arm.committed, beq_iff_eq]
  obtain ⟨idle, -, arm⟩ | ⟨window, edge, late, arm⟩ | ⟨-, guard, -, arm⟩ | ⟨-, same, -, -, arm⟩ |
    ⟨-, guard, -, arm⟩ := chooseArm_cases pending q expired g extra <;> rw [arm]
  · simp [idle]
  · simp [window, edge, late]
  · exact iff_of_false noCommit fun h => guard h.2
  · simp [same]
  · exact iff_of_false (by decide) fun h => guard ⟨h.1, h.2.2⟩

theorem normalArm_committed_iff (smp : Bool) (c : Configuration) (now : U32) (r : Slot) :
    (normalArm smp c now r).committed = true ↔
      r.pending = true ∧ smp ≠ r.prevState ∧ debounceOver c now r = true := by
  rw [normalArm, chooseArm_committed_iff (by decide), differs_iff, deb_eq_debounceOver]

/-! ### The chain of R100, guard by guard -/

section Chain

variable {smp : Bool} {o : Overflow} {c : Configuration} {now : U32} {r : Slot}

theorem chainNormal_opens (idle : r.pending = false) (edge : smp ≠ r.prevState) :
    chainNormal smp o c now r = opened now r := if_pos ⟨idle, edge⟩

theorem chainNormal_commits (window : r.pending = true) (edge : smp ≠ r.prevState)
    (expired : debounceOver c now r = true) :
    chainNormal smp o c now r = { r with
      currentState := smp, prevState := smp, pressCount := countPlus o r.pressCount smp, pending := false } := by
  simp [chainNormal, window, edge, expired]

theorem chainNormal_aborts (window : r.pending = true) (same : smp = r.prevState)
    (expired : debounceOver c now r = true) : chainNormal smp o c now r = aborted r := by
  simp [chainNormal, window, same, expired]

theorem chainNormal_waits (window : r.pending = true) (early : debounceOver c now r = false) :
    chainNormal smp o c now r = r := by
  simp [chainNormal, window, early]

theorem chainNormal_rests (idle : r.pending = false) (same : smp = r.prevState) :
    chainNormal smp o c now r = r := by
  simp [chainNormal, idle, same]

end Chain

/-! ### NORMAL and INVERTED execute that chain (R100, R104) -/

/-- The shared path of the two modes, on a slot record. -/
theorem normalAdvance_eq_chainNormal (s : State) (smp : Bool) (r : Slot) :
    normalAdvance s smp r = chainNormal smp s.params.overflow s.cfg s.inp.nowMs r := by
  unfold normalAdvance normalArm
  rw [deb_eq_debounceOver]
  obtain ⟨idle, edge, arm⟩ | ⟨window, edge, expired, arm⟩ | ⟨-, -, extra, -⟩ | ⟨window, same, expired, -, arm⟩ |
    ⟨quiet, early, -, arm⟩ := chooseArm_cases r.pending (differs smp r.prevState)
      (debounceOver s.cfg s.inp.nowMs r) false .rests
  · rw [arm, chainNormal_opens idle ((differs_iff _ _).mp edge)]; rfl
  · rw [arm, chainNormal_commits window ((differs_iff _ _).mp edge) expired]
    simp [applyArm, normalCommit, addPress_eq_countPlus]
  · cases extra
  · rw [arm, chainNormal_aborts window (by simpa [differs] using same) expired]; rfl
  · rw [arm]
    cases window : r.pending with
    | true => rw [chainNormal_waits window (by simpa [window] using early)]; rfl
    | false => rw [chainNormal_rests window (by simpa [window, differs] using quiet)]; rfl

theorem exec_normal_here {s : State} {r : Slot} (here : s.slotHere = some r) :
    exec .normal s = .next (withSlotHere s (chainNormal r.pinState s.params.overflow s.cfg s.inp.nowMs r)) := by
  rw [exec_mode rfl, ← normalAdvance_eq_chainNormal]
  exact congrArg _ (onSlot_here here _)

theorem exec_inverted_here {s : State} {r : Slot} (here : s.slotHere = some r) :
    exec .inverted s =
      .next (withSlotHere s (chainNormal (!r.pinState) s.params.overflow s.cfg s.inp.nowMs r)) := by
  rw [exec_mode rfl, ← normalAdvance_eq_chainNormal]
  exact congrArg _ (onSlot_here here _)

/-- Settles O12: the model's arm is the arm of R100's chain, and its commit guard is the rule's. -/
theorem normalFollowsItsChain : Obligations.NormalFollowsItsChain :=
  ⟨rfl, fun s r here => ⟨exec_normal_here here, normalArm_committed_iff r.pinState s.cfg s.inp.nowMs r⟩⟩

/-- Settles O13: the shared path of R100, given the inverted sample. -/
theorem invertedFollowsItsChain : Obligations.InvertedFollowsItsChain :=
  ⟨rfl, fun s r here => ⟨exec_inverted_here here, normalArm_committed_iff (!r.pinState) s.cfg s.inp.nowMs r⟩⟩

/-! ### The slot at the walk index while its pin is held (`sampleNow`, `heldAt`) -/

theorem withSlotHere_slotHere {s : State} {r : Slot} (here : s.slotHere = some r) (q : Slot) :
    (withSlotHere s q).slotHere = some q := by
  obtain ⟨inRange, -⟩ := List.getElem?_eq_some_iff.mp here
  exact List.getElem?_set_self inRange

/-- R171 on one record: the old sample is saved and `level` taken. -/
def takeLevel (level : Bool) (r : Slot) : Slot := { r with pinPrevState := r.pinState, pinState := level }

theorem sampleNow_slotHere {s : State} {r : Slot} (here : s.slotHere = some r) (now : U32) (level : Bool) :
    (sampleNow now level s).slotHere = some (takeLevel level r) := by
  unfold State.slotHere at here
  simp [State.slotHere, sampleNow, here, takeLevel]

/-- The records of one slot under `heldAt`: latch and chain of the mode at each time in turn. -/
def heldRecord (m : Instr) (o : Overflow) (c : Configuration) (level : Bool) (times : List U32) (r : Slot) : Slot :=
  times.foldl (fun q now => chainOf m o c now (takeLevel level q)) r

theorem heldRecord_cons (m : Instr) (o : Overflow) (c : Configuration) (level : Bool) (now : U32)
    (times : List U32) (r : Slot) :
    heldRecord m o c level (now :: times) r =
      heldRecord m o c level times (chainOf m o c now (takeLevel level r)) := rfl

/-- Executing `m` is its chain on the slot at the walk index, and nothing else. -/
def ExecIsChain (m : Instr) : Prop :=
  ∀ (s : State) (r : Slot), s.slotHere = some r →
    exec m s = .next (withSlotHere s (chainOf m s.params.overflow s.cfg s.inp.nowMs r))

theorem execIsChain_normal : ExecIsChain .normal := fun _ _ here => exec_normal_here here

theorem execIsChain_inverted : ExecIsChain .inverted := fun _ _ here => exec_inverted_here here

/-- A mode that executes its chain takes the held slot through `heldRecord`, by the parameters and the configuration
of the start. -/
theorem heldAt_slotHere {m : Instr} (isChain : ExecIsChain m) (level : Bool) (times : List U32) {s : State} {r : Slot}
    (here : s.slotHere = some r) :
    (heldAt m level times s).slotHere = some (heldRecord m s.params.overflow s.cfg level times r) := by
  induction times generalizing s r with
  | nil => exact here
  | cons now times ih =>
    have sampled := sampleNow_slotHere here now level
    have visit : heldAt m level (now :: times) s = heldAt m level times
        (withSlotHere (sampleNow now level s) (chainOf m s.params.overflow s.cfg now (takeLevel level r))) :=
      congrArg (fun a => heldAt m level times (answerOr s a)) (isChain _ _ sampled)
    rw [visit, ih (withSlotHere_slotHere sampled _)]
    rfl

/-! ### A clean press in NORMAL and INVERTED (R103) -/

/-- The pin stands at the level whose effective sample is 1 in NORMAL or INVERTED (R82). -/
def PressedLevel (m : Instr) (level : Bool) : Prop := (m = .normal ∧ level = true) ∨ (m = .inverted ∧ level = false)

/-- The window of a press was opened at `t0` and is open, `n` presses were counted before. -/
structure PressPending (t0 n : U32) (r : Slot) : Prop where
  window : r.pending = true
  low : r.prevState = false
  openedAt : r.timeLast = t0
  count : r.pressCount = n

/-- The press was committed as the `n`-th. -/
structure PressCommitted (n : U32) (r : Slot) : Prop where
  output : r.currentState = true
  high : r.prevState = true
  closed : r.pending = false
  count : r.pressCount = n

section Press

variable {m : Instr} {level : Bool} (pressed : PressedLevel m level) {o : Overflow} {c : Configuration}
  {now t0 n : U32} {r : Slot}

include pressed

theorem execIsChain_of_pressedLevel : ExecIsChain m := by
  obtain ⟨rfl, -⟩ | ⟨rfl, -⟩ := pressed
  · exact execIsChain_normal
  · exact execIsChain_inverted

/-- Both modes run R100 on the effective sample 1. -/
theorem chainOf_pressedLevel :
    chainOf m o c now (takeLevel level r) = chainNormal true o c now (takeLevel level r) := by
  obtain ⟨rfl, rfl⟩ | ⟨rfl, rfl⟩ := pressed <;> rfl

theorem pressPending_of_edge (idle : r.pending = false) (low : r.prevState = false) :
    PressPending now r.pressCount (chainOf m o c now (takeLevel level r)) := by
  rw [chainOf_pressedLevel pressed, chainNormal_opens (r := takeLevel level r) idle (by simp [takeLevel, low])]
  exact ⟨rfl, low, rfl, rfl⟩

theorem pressPending_keeps (h : PressPending t0 n r) (early : ¬ c.debounceMs.toNat < elapsedMs now t0) :
    PressPending t0 n (chainOf m o c now (takeLevel level r)) := by
  obtain ⟨window, low, rfl, rfl⟩ := h
  rw [chainOf_pressedLevel pressed, chainNormal_waits (r := takeLevel level r) window (decide_eq_false early)]
  exact ⟨window, low, rfl, rfl⟩

theorem pressPending_commits (h : PressPending t0 n r) (expired : c.debounceMs.toNat < elapsedMs now t0) :
    PressCommitted (countPlus o n true) (chainOf m o c now (takeLevel level r)) := by
  obtain ⟨window, low, rfl, rfl⟩ := h
  rw [chainOf_pressedLevel pressed,
    chainNormal_commits (r := takeLevel level r) window (by simp [takeLevel, low]) (decide_eq_true expired)]
  exact ⟨rfl, rfl, rfl, rfl⟩

theorem pressCommitted_keeps (h : PressCommitted n r) :
    PressCommitted n (chainOf m o c now (takeLevel level r)) := by
  obtain ⟨output, high, closed, count⟩ := h
  rw [chainOf_pressedLevel pressed, chainNormal_rests (r := takeLevel level r) closed high.symm]
  exact ⟨output, high, closed, count⟩

theorem pressCommitted_heldRecord (times : List U32) (h : PressCommitted n r) :
    PressCommitted n (heldRecord m o c level times r) := by
  induction times generalizing r with
  | nil => exact h
  | cons now times ih => exact ih (pressCommitted_keeps pressed h)

/-- The first time past `debounce_ms` commits, and the times before and after it change nothing. -/
theorem pressPending_heldRecord {times : List U32} (h : PressPending t0 n r)
    (expired : ∃ t ∈ times, c.debounceMs.toNat < elapsedMs t t0) :
    PressCommitted (countPlus o n true) (heldRecord m o c level times r) := by
  induction times generalizing r with
  | nil => simp at expired
  | cons now times ih =>
    rw [heldRecord_cons]
    by_cases first : c.debounceMs.toNat < elapsedMs now t0
    · exact pressCommitted_heldRecord pressed times (pressPending_commits pressed h first)
    · exact ih (pressPending_keeps pressed h first) (by simpa [first] using expired)

end Press

/-- Settles O24: the cycle at the edge opens, the first cycle past `debounce_ms` commits, all later ones rest. -/
theorem cleanPressCommitsOnce : Obligations.CleanPressCommitsOnce := by
  intro m s r t0 times level pressed here idle low expired
  obtain ⟨output, high, closed, count⟩ :=
    pressPending_heldRecord (o := s.params.overflow) pressed (pressPending_of_edge pressed idle low) expired
  exact ⟨_, heldAt_slotHere (execIsChain_of_pressedLevel pressed) level (t0 :: times) here, output, high, closed, count⟩

end Sys2Proof.Proofs

namespace Sys2Proof.Proofs

open Sys2Proof.Machine
open Sys2Proof.Safety

/-! ### The chain of R110, guard by guard -/

@[simp] theorem rose_iff (smp prev : Bool) : rose smp prev = true ↔ smp = true ∧ prev = false := by
  simp [rose]

theorem toggleArm_committed_iff (c : Configuration) (now : U32) (r : Slot) :
    (toggleArm c now r).committed = true ↔
      r.pending = true ∧ r.pinState = true ∧ r.prevState = false ∧ debounceOver c now r = true := by
  rw [toggleArm, chooseArm_committed_iff (by decide), rose_iff, deb_eq_debounceOver, and_assoc]

section ToggleChain

variable {o : Overflow} {c : Configuration} {now : U32} {r : Slot}

theorem chainToggle_opens (idle : r.pending = false) (edge : r.pinState = true ∧ r.prevState = false) :
    chainToggle o c now r = opened now r := if_pos ⟨idle, edge⟩

theorem chainToggle_commits (window : r.pending = true) (edge : r.pinState = true ∧ r.prevState = false)
    (expired : debounceOver c now r = true) :
    chainToggle o c now r = { r with
      prevState := true, currentState := !r.currentState, pressCount := countPlus o r.pressCount true,
      pending := false } := by
  simp [chainToggle, window, edge, expired]

/-- R111: the release needs no open window. -/
theorem chainToggle_releases (low : r.pinState = false) (expired : debounceOver c now r = true) :
    chainToggle o c now r = { r with pending := false, prevState := false } := by
  simp [chainToggle, low, expired]

theorem chainToggle_aborts (window : r.pending = true) (high : r.pinState = true) (same : r.prevState = true)
    (expired : debounceOver c now r = true) : chainToggle o c now r = aborted r := by
  simp [chainToggle, window, high, same, expired]

theorem chainToggle_rests (noEdge : ¬ (r.pending = false ∧ r.pinState = true ∧ r.prevState = false))
    (early : debounceOver c now r = true → r.pending = false ∧ r.pinState = true) :
    chainToggle o c now r = r := by
  unfold chainToggle
  rw [if_neg noEdge, if_neg, if_neg, if_neg]
  · rintro ⟨window, expired⟩; simp [(early expired).1] at window
  · rintro ⟨low, expired⟩; simp [(early expired).2] at low
  · rintro ⟨window, -, -, expired⟩; simp [(early expired).1] at window

theorem chainToggle_waits (window : r.pending = true) (early : debounceOver c now r = false) :
    chainToggle o c now r = r :=
  chainToggle_rests (by simp [window]) (by simp [early])

end ToggleChain

/-! ### TOGGLE executes that chain (R110) -/

theorem toggleAdvance_eq_chainToggle (s : State) (r : Slot) :
    toggleAdvance s r = chainToggle s.params.overflow s.cfg s.inp.nowMs r := by
  unfold toggleAdvance toggleArm
  rw [deb_eq_debounceOver]
  obtain ⟨idle, edge, arm⟩ | ⟨window, edge, expired, arm⟩ | ⟨-, -, guard, arm⟩ |
    ⟨window, noEdge, expired, notLow, arm⟩ | ⟨quiet, early, notLow, arm⟩ :=
    chooseArm_cases r.pending (rose r.pinState r.prevState) (debounceOver s.cfg s.inp.nowMs r)
      (!r.pinState && debounceOver s.cfg s.inp.nowMs r) .releases <;> rw [arm]
  · rw [chainToggle_opens idle ((rose_iff _ _).mp edge)]; rfl
  · rw [chainToggle_commits window ((rose_iff _ _).mp edge) expired]
    simp [applyArm, toggleCommit, addPress_eq_countPlus]
  · obtain ⟨low, expired⟩ : r.pinState = false ∧ debounceOver s.cfg s.inp.nowMs r = true := by
      simpa using guard
    rw [chainToggle_releases low expired]; rfl
  · have high : r.pinState = true := by simpa [expired] using notLow
    have same : r.prevState = true := by simpa [rose, high] using noEdge
    rw [chainToggle_aborts window high same expired]; rfl
  · rw [chainToggle_rests (by simpa using quiet)]
    · rfl
    · intro expired
      exact ⟨by simpa [expired] using early, by simpa [expired] using notLow⟩

theorem exec_toggle_here {s : State} {r : Slot} (here : s.slotHere = some r) :
    exec .toggle s = .next (withSlotHere s (chainToggle s.params.overflow s.cfg s.inp.nowMs r)) := by
  rw [exec_mode rfl, ← toggleAdvance_eq_chainToggle]
  exact congrArg _ (onSlot_here here _)

theorem execIsChain_toggle : ExecIsChain .toggle := fun _ _ here => exec_toggle_here here

/-- Settles O14: the model's arm is the arm of R110's chain, and its commit guard is the rule's. -/
theorem toggleFollowsItsChain : Obligations.ToggleFollowsItsChain :=
  ⟨rfl, fun s r here => ⟨exec_toggle_here here, toggleArm_committed_iff s.cfg s.inp.nowMs r⟩⟩

/-! ### Holding a level for a list of times -/

theorem runMode_params (i : Instr) (s : State) : (runMode i s).params = s.params := by rw [runMode_frame]

theorem runMode_cfg (i : Instr) (s : State) : (runMode i s).cfg = s.cfg := by rw [runMode_frame]

/-- A mode's advances at one level leave the parameters and the configuration alone. -/
theorem heldAt_params_cfg {m : Instr} (mode : m.format = .mode8) (level : Bool) (times : List U32) (s : State) :
    (heldAt m level times s).params = s.params ∧ (heldAt m level times s).cfg = s.cfg := by
  induction times generalizing s with
  | nil => exact ⟨rfl, rfl⟩
  | cons now times ih =>
    have visit : heldAt m level (now :: times) s = heldAt m level times (runMode m (sampleNow now level s)) :=
      congrArg (fun a => heldAt m level times (answerOr s a)) (exec_mode mode _)
    obtain ⟨params, cfg⟩ := ih (runMode m (sampleNow now level s))
    rw [visit]
    exact ⟨params.trans (runMode_params m _), cfg.trans (runMode_cfg m _)⟩

section Held

variable {m : Instr} {o : Overflow} {c : Configuration} {level : Bool} {P Q : Slot → Prop} {r : Slot}

/-- What one visit keeps, every list of visits keeps. -/
theorem heldRecord_keeps (keep : ∀ now q, Q q → Q (chainOf m o c now (takeLevel level q))) (times : List U32)
    (h : Q r) : Q (heldRecord m o c level times r) := by
  induction times generalizing r with
  | nil => exact h
  | cons now times ih => exact ih (keep now r h)

/-- `P` holds until the first time past `debounce_ms` after `t0`, and `Q` from that time on. -/
theorem heldRecord_reaches {t0 : U32} {times : List U32}
    (wait : ∀ now q, P q → ¬ c.debounceMs.toNat < elapsedMs now t0 → P (chainOf m o c now (takeLevel level q)))
    (fire : ∀ now q, P q → c.debounceMs.toNat < elapsedMs now t0 → Q (chainOf m o c now (takeLevel level q)))
    (keep : ∀ now q, Q q → Q (chainOf m o c now (takeLevel level q))) (h : P r)
    (expired : ∃ t ∈ times, c.debounceMs.toNat < elapsedMs t t0) : Q (heldRecord m o c level times r) := by
  induction times generalizing r with
  | nil => simp at expired
  | cons now times ih =>
    rw [heldRecord_cons]
    by_cases first : c.debounceMs.toNat < elapsedMs now t0
    · exact heldRecord_keeps keep times (fire now r h first)
    · exact ih (wait now r h first) (by simpa [first] using expired)

end Held

/-! ### Presses and releases in TOGGLE (R115) -/

/-- The fields of a slot record that TOGGLE writes. -/
structure ToggleRecord (pending prev : Bool) (opened : U32) (output : Bool) (count : U32) (r : Slot) : Prop where
  pending_eq : r.pending = pending
  prevState_eq : r.prevState = prev
  timeLast_eq : r.timeLast = opened
  currentState_eq : r.currentState = output
  pressCount_eq : r.pressCount = count

section Toggle

variable {o : Overflow} {c : Configuration} {now t0 n : U32} {v : Bool} {r : Slot}

theorem toggleRecord_opens (h : ToggleRecord false false t0 v n r) :
    ToggleRecord true false now v n (chainToggle o c now (takeLevel true r)) := by
  obtain ⟨idle, low, -, output, count⟩ := h
  rw [chainToggle_opens (r := takeLevel true r) idle ⟨rfl, low⟩]
  exact ⟨rfl, low, rfl, output, count⟩

theorem toggleRecord_waits (h : ToggleRecord true false t0 v n r) (early : ¬ c.debounceMs.toNat < elapsedMs now t0) :
    ToggleRecord true false t0 v n (chainToggle o c now (takeLevel true r)) := by
  obtain ⟨window, low, rfl, output, count⟩ := h
  rw [chainToggle_waits (r := takeLevel true r) window (decide_eq_false early)]
  exact ⟨window, low, rfl, output, count⟩

theorem toggleRecord_commits (h : ToggleRecord true false t0 v n r)
    (expired : c.debounceMs.toNat < elapsedMs now t0) :
    ToggleRecord false true t0 (!v) (countPlus o n true) (chainToggle o c now (takeLevel true r)) := by
  obtain ⟨window, low, rfl, rfl, rfl⟩ := h
  rw [chainToggle_commits (r := takeLevel true r) window ⟨rfl, low⟩ (decide_eq_true expired)]
  exact ⟨rfl, rfl, rfl, rfl, rfl⟩

theorem toggleRecord_rests_pressed (h : ToggleRecord false true t0 v n r) :
    ToggleRecord false true t0 v n (chainToggle o c now (takeLevel true r)) := by
  obtain ⟨idle, high, opened, output, count⟩ := h
  rw [chainToggle_rests (r := takeLevel true r) (by simp [takeLevel, high]) fun _ => ⟨idle, rfl⟩]
  exact ⟨idle, high, opened, output, count⟩

theorem toggleRecord_low_early {prev : Bool} (h : ToggleRecord false prev t0 v n r)
    (early : ¬ c.debounceMs.toNat < elapsedMs now t0) :
    ToggleRecord false prev t0 v n (chainToggle o c now (takeLevel false r)) := by
  obtain ⟨idle, prevState, rfl, output, count⟩ := h
  have notOver : debounceOver c now (takeLevel false r) = false := decide_eq_false early
  rw [chainToggle_rests (r := takeLevel false r) (by simp [takeLevel]) (by simp [notOver])]
  exact ⟨idle, prevState, rfl, output, count⟩

theorem toggleRecord_low_expired {prev : Bool} (h : ToggleRecord false prev t0 v n r)
    (expired : c.debounceMs.toNat < elapsedMs now t0) :
    ToggleRecord false false t0 v n (chainToggle o c now (takeLevel false r)) := by
  obtain ⟨-, -, rfl, output, count⟩ := h
  rw [chainToggle_releases (r := takeLevel false r) rfl (decide_eq_true expired)]
  exact ⟨rfl, rfl, rfl, output, count⟩

theorem toggleRecord_low_released (h : ToggleRecord false false t0 v n r) :
    ToggleRecord false false t0 v n (chainToggle o c now (takeLevel false r)) := by
  by_cases expired : c.debounceMs.toNat < elapsedMs now t0
  · exact toggleRecord_low_expired h expired
  · exact toggleRecord_low_early h expired

/-- The first time opens, the first time past `debounce_ms` commits, and no later one does anything. -/
theorem toggleRecord_press {t1 : U32} {times : List U32} (h : ToggleRecord false false t0 v n r)
    (expired : ∃ t ∈ times, c.debounceMs.toNat < elapsedMs t t1) :
    ToggleRecord false true t1 (!v) (countPlus o n true) (heldRecord .toggle o c true (t1 :: times) r) := by
  rw [heldRecord_cons]
  exact heldRecord_reaches (P := ToggleRecord true false t1 v n) (fun _ _ => toggleRecord_waits)
    (fun _ _ => toggleRecord_commits) (fun _ _ => toggleRecord_rests_pressed) (toggleRecord_opens h) expired

/-- The first time past `debounce_ms` after the last open releases. -/
theorem toggleRecord_release {times : List U32} (h : ToggleRecord false true t0 v n r)
    (expired : ∃ t ∈ times, c.debounceMs.toNat < elapsedMs t t0) :
    ToggleRecord false false t0 v n (heldRecord .toggle o c false times r) :=
  heldRecord_reaches (P := ToggleRecord false true t0 v n) (fun _ _ => toggleRecord_low_early)
    (fun _ _ => toggleRecord_low_expired) (fun _ _ => toggleRecord_low_released) h expired

/-- R112: a low pin changes neither the output nor the count, whether a release happens or not. -/
theorem toggleRecord_low_keeps {times : List U32} (h : ToggleRecord false true t0 v n r) :
    ∃ prev, ToggleRecord false prev t0 v n (heldRecord .toggle o c false times r) := by
  refine heldRecord_keeps (Q := fun q => ∃ prev, ToggleRecord false prev t0 v n q) ?_ times ⟨true, h⟩
  rintro now q ⟨prev, hq⟩
  by_cases expired : c.debounceMs.toNat < elapsedMs now t0
  · exact ⟨false, toggleRecord_low_expired hq expired⟩
  · exact ⟨prev, toggleRecord_low_early hq expired⟩

end Toggle

/-- The slot under TOGGLE at one level, by the parameters and the configuration of an earlier state. -/
theorem heldAt_toggle {s u : State} {r : Slot} (params : u.params = s.params) (cfg : u.cfg = s.cfg)
    (here : u.slotHere = some r) (level : Bool) (times : List U32) :
    (heldAt .toggle level times u).params = s.params ∧ (heldAt .toggle level times u).cfg = s.cfg ∧
    (heldAt .toggle level times u).slotHere =
      some (heldRecord .toggle s.params.overflow s.cfg level times r) := by
  obtain ⟨keptParams, keptCfg⟩ := heldAt_params_cfg (m := .toggle) rfl level times u
  refine ⟨keptParams.trans params, keptCfg.trans cfg, ?_⟩
  rw [heldAt_slotHere execIsChain_toggle level times here, params, cfg]

/-- Settles O25: press, release, press, low again, each by its effect on the slot record. -/
theorem twoTogglePressesFlipTwice : Obligations.TwoTogglePressesFlipTwice := by
  rintro s r t0 t1 high0 low0 high1 low1 a b c here idle low press0 release0 press1 rfl rfl rfl
  obtain ⟨params0, cfg0, here0⟩ := heldAt_toggle (s := s) rfl rfl here true (t0 :: high0)
  obtain ⟨params1, cfg1, here1⟩ := heldAt_toggle params0 cfg0 here0 false low0
  obtain ⟨params2, cfg2, here2⟩ := heldAt_toggle params1 cfg1 here1 true (t1 :: high1)
  obtain ⟨-, -, here3⟩ := heldAt_toggle params2 cfg2 here2 false low1
  have rec0 := toggleRecord_press (o := s.params.overflow) ⟨idle, low, rfl, rfl, rfl⟩ press0
  have rec1 := toggleRecord_release (o := s.params.overflow) rec0 release0
  have rec2 := toggleRecord_press (o := s.params.overflow) rec1 press1
  obtain ⟨_, rec3⟩ := toggleRecord_low_keeps (o := s.params.overflow) (c := s.cfg) (times := low1) rec2
  exact ⟨_, _, _, here0, rec0.currentState_eq, rec0.pressCount_eq,
    here2, by rw [rec2.currentState_eq, Bool.not_not], by rw [rec2.pressCount_eq, rec0.pressCount_eq],
    here3, rec3.currentState_eq.trans rec2.currentState_eq.symm, rec3.pressCount_eq.trans rec2.pressCount_eq.symm⟩

end Sys2Proof.Proofs

namespace Sys2Proof.Proofs

open Sys2Proof.Machine
open Sys2Proof.Safety

theorem hold_eq_holdOver (c : Configuration) (now : U32) (r : Slot) : hold c now r = holdOver c now r := by
  rw [Bool.eq_iff_iff, hold, gtU_iff, elapsed_toNat, holdOver, decide_eq_true_iff, elapsedMs]

@[simp] theorem fell_iff (smp prev : Bool) : fell smp prev = true ↔ smp = false ∧ prev = true := by
  simp [fell]

/-! ### The one chain behind R120, R126 and R128

The three switch modes differ in the edge that opens and commits and in what the auto-release writes. -/

/-- The edge a switch mode opens and commits on, as the model computes it. -/
def switchEdge (m : Instr) (r : Slot) : Bool :=
  match m with
  | .toggleSwitchOn => rose r.pinState r.prevState
  | .toggleSwitchOff => fell r.pinState r.prevState
  | _ => differs r.pinState r.prevState

/-- What the auto-release of a switch mode writes beside `pending` (R124). -/
def switchRelease (m : Instr) : Slot → Slot :=
  match m with
  | .toggleSwitch => pulseEnd
  | _ => pulseEndResync

theorem switchRelease_currentState (m : Instr) (r : Slot) : (switchRelease m r).currentState = false := by
  unfold switchRelease; split <;> rfl

theorem switchRelease_pressCount (m : Instr) (r : Slot) : (switchRelease m r).pressCount = r.pressCount := by
  unfold switchRelease; split <;> rfl

/-- R120 with the edge and the auto-release of the mode left open. -/
def chainSwitch (edge : Bool) (release : Slot → Slot) (o : Overflow) (c : Configuration) (now : U32) (r : Slot) :
    Slot :=
  if r.pending = false ∧ edge = true then opened now r
  else if r.pending = true ∧ edge = true ∧ debounceOver c now r = true then
    { r with currentState := true, prevState := r.pinState, pressCount := countPlus o r.pressCount true,
             pending := false }
  else if holdOver c now r = true then { release r with pending := false }
  else if r.pending = true ∧ debounceOver c now r = true then aborted r
  else r

theorem chainSwitch_releases {edge : Bool} {release : Slot → Slot} {o : Overflow} {c : Configuration} {now : U32}
    {r : Slot} (noOpen : ¬ (r.pending = false ∧ edge = true))
    (noCommit : ¬ (r.pending = true ∧ edge = true ∧ debounceOver c now r = true))
    (late : holdOver c now r = true) :
    chainSwitch edge release o c now r = { release r with pending := false } := by
  rw [chainSwitch, if_neg noOpen, if_neg noCommit, if_pos late]

/-- The model's path of the three modes is that chain. -/
theorem switchAdvance_eq_chainSwitch (s : State) (edge : Bool) (release : Slot → Slot) (r : Slot) :
    switchAdvance s edge release r = chainSwitch edge release s.params.overflow s.cfg s.inp.nowMs r := by
  unfold switchAdvance switchArm chainSwitch
  rw [deb_eq_debounceOver, hold_eq_holdOver]
  obtain ⟨idle, edge, arm⟩ | ⟨window, edge, expired, arm⟩ | ⟨noOpen, noCommit, late, arm⟩ |
    ⟨window, noEdge, expired, holding, arm⟩ | ⟨noOpen, noExpiry, holding, arm⟩ :=
    chooseArm_cases r.pending edge (debounceOver s.cfg s.inp.nowMs r) (holdOver s.cfg s.inp.nowMs r)
      .autoReleases <;> rw [arm]
  · rw [if_pos ⟨idle, edge⟩]; rfl
  · simp [window, edge, expired, applyArm, switchCommit, addPress_eq_countPlus]
  · rw [if_neg noOpen, if_neg fun h => noCommit h.2, if_pos late]; rfl
  · simp [window, noEdge, expired, holding, applyArm, aborted]
  · rw [if_neg noOpen, if_neg fun h => noExpiry ⟨h.1, h.2.2⟩, if_neg (by simp [holding]), if_neg noExpiry]; rfl

section SwitchModes

variable {m : Instr} (mode : SwitchMode m) {o : Overflow} {c : Configuration} {now : U32} {r : Slot}

include mode

theorem switchEdge_iff : switchEdge m r = true ↔ Qualifies m r := by
  obtain rfl | rfl | rfl := mode
  · exact differs_iff _ _
  · exact rose_iff _ _
  · exact fell_iff _ _

/-- The spec's chain of each switch mode: where R126 and R128 write a constant to `prev_state` in the commit, the
guard makes it the sample. -/
theorem chainOf_eq_chainSwitch :
    chainOf m o c now r = chainSwitch (switchEdge m r) (switchRelease m) o c now r := by
  obtain rfl | rfl | rfl := mode
  · simp [chainOf, chainToggleSwitch, chainSwitch, switchEdge, switchRelease, pulseEnd]
  · cases pin : r.pinState <;>
      simp [chainOf, chainToggleSwitchOn, chainSwitch, switchEdge, switchRelease, pulseEndResync, pin]
  · cases pin : r.pinState <;>
      simp [chainOf, chainToggleSwitchOff, chainSwitch, switchEdge, switchRelease, pulseEndResync, pin]

theorem runMode_switch (s : State) :
    runMode m s = s.onSlot fun r => switchAdvance s (switchEdge m r) (switchRelease m) r := by
  obtain rfl | rfl | rfl := mode <;> rfl

/-- R120, R126, R128: a switch mode executes its chain. -/
theorem execIsChain_switchMode : ExecIsChain m := by
  intro s r here
  have word : m.format = .mode8 := by obtain rfl | rfl | rfl := mode <;> rfl
  rw [exec_mode word, runMode_switch mode, onSlot_here here, chainOf_eq_chainSwitch mode,
    switchAdvance_eq_chainSwitch]
  rfl

theorem switchMode_committed_iff :
    (armOf m c now r).committed = true ↔ r.pending = true ∧ Qualifies m r ∧ debounceOver c now r = true := by
  have arm : armOf m c now r = switchArm (switchEdge m r) c now r := by obtain rfl | rfl | rfl := mode <;> rfl
  rw [arm, switchArm, chooseArm_committed_iff (by decide), switchEdge_iff mode, deb_eq_debounceOver]

/-- R124: past the hold time, with neither an open nor a commit, the chain takes the auto-release. -/
theorem chainOf_switchMode_releases (noOpen : ¬ (r.pending = false ∧ Qualifies m r))
    (noCommit : ¬ (r.pending = true ∧ Qualifies m r ∧ debounceOver c now r = true))
    (late : holdOver c now r = true) :
    chainOf m o c now r = { switchRelease m r with pending := false } := by
  rw [← switchEdge_iff mode] at noOpen noCommit
  rw [chainOf_eq_chainSwitch mode, chainSwitch_releases noOpen noCommit late]

end SwitchModes

/-- Settles O15: TOGGLE_SWITCH is the switch chain on any change of the sample. -/
theorem toggleSwitchFollowsItsChain : Obligations.ToggleSwitchFollowsItsChain :=
  ⟨rfl, fun s r here => ⟨execIsChain_switchMode (.inl rfl) s r here, switchMode_committed_iff (.inl rfl)⟩⟩

/-- Settles O26: the advance takes the auto-release, which clears `current_state` and counts nothing. -/
theorem switchPulseEndsByItself : Obligations.SwitchPulseEndsByItself := by
  intro m s r mode here late noOpen noCommit
  have released := execIsChain_switchMode mode s r here
  rw [chainOf_switchMode_releases mode noOpen noCommit late] at released
  exact ⟨_, _, released, withSlotHere_slotHere here _, switchRelease_currentState m r, rfl,
    switchRelease_pressCount m r⟩

end Sys2Proof.Proofs

namespace Sys2Proof.Proofs

open Sys2Proof.Machine
open Sys2Proof.Safety

/-! ### The skeleton of the POV modes is NORMAL's without the write of `current_state` (R140) -/

theorem povAdvance_eq_normalAdvance (s : State) (r : Slot) :
    povAdvance s r = { normalAdvance s r.pinState r with currentState := r.currentState } := by
  unfold povAdvance normalAdvance
  rw [show povArm s.cfg s.inp.nowMs r = normalArm r.pinState s.cfg s.inp.nowMs r from rfl]
  cases normalArm r.pinState s.cfg s.inp.nowMs r <;> rfl

theorem chainPov_eq_chainNormal (o : Overflow) (c : Configuration) (now : U32) (r : Slot) :
    chainPov o c now r = { chainNormal r.pinState o c now r with currentState := r.currentState } := by
  unfold chainPov chainNormal
  split_ifs <;> rfl

theorem povAdvance_eq_chainPov (s : State) (r : Slot) :
    povAdvance s r = chainPov s.params.overflow s.cfg s.inp.nowMs r := by
  rw [povAdvance_eq_normalAdvance, normalAdvance_eq_chainNormal, ← chainPov_eq_chainNormal]

theorem povArm_committed_iff (c : Configuration) (now : U32) (r : Slot) :
    (povArm c now r).committed = true ↔ PovCommits c now r :=
  normalArm_committed_iff r.pinState c now r

/-! ### The one mask bit a commit writes (R61, R141) -/

theorem directionBit_eq_weight {d : Nat} (dir : d < 4) : directionBit d = weight d := by
  interval_cases d <;> rfl

theorem povMaskAfter_eq_maskCommitted {d : Nat} (dir : d < 4) (s : State) (h : Hat) (r : Slot) :
    povMaskAfter s h d r =
      if PovCommits s.cfg s.inp.nowMs r then maskCommitted s.povMask h d r.pinState else s.povMask := by
  simp only [povMaskAfter, povArm_committed_iff, maskWrite, maskCommitted, directionBit_eq_weight dir]

/-! ### The four modes of a hat: word, operation, arm -/

/-- R140: the modes that own a mask bit, by the hat and the direction they own. -/
theorem povOwner_eq_some_iff {m : Instr} {h : Hat} {d : Nat} :
    povOwner m = some (h, d) ↔
      (m = .povUp h ∧ d = 0) ∨ (m = .povRight h ∧ d = 1) ∨ (m = .povDown h ∧ d = 2) ∨
        (m = .povLeft h ∧ d = 3) := by
  cases m <;> simp [povOwner, eq_comm]

section PovModes

variable {m : Instr} {h : Hat} {d : Nat} (owns : povOwner m = some (h, d))

include owns

theorem povOwner_direction_lt : d < 4 := by
  have dirs := povOwner_eq_some_iff.mp owns
  omega

theorem decodeMode_povByte : decodeMode (povByte h d) = m := by
  obtain ⟨rfl, rfl⟩ | ⟨rfl, rfl⟩ | ⟨rfl, rfl⟩ | ⟨rfl, rfl⟩ := povOwner_eq_some_iff.mp owns <;>
    (clear owns; revert h; decide)

theorem exec_pov (s : State) : exec m s = .next (runPov h d s) := by
  obtain ⟨rfl, rfl⟩ | ⟨rfl, rfl⟩ | ⟨rfl, rfl⟩ | ⟨rfl, rfl⟩ := povOwner_eq_some_iff.mp owns <;> rfl

theorem armOf_pov (c : Configuration) (now : U32) (r : Slot) : armOf m c now r = povArm c now r := by
  obtain ⟨rfl, -⟩ | ⟨rfl, -⟩ | ⟨rfl, -⟩ | ⟨rfl, -⟩ := povOwner_eq_some_iff.mp owns <;> rfl

theorem pov_committed_iff (c : Configuration) (now : U32) (r : Slot) :
    (armOf m c now r).committed = true ↔ PovCommits c now r := by
  rw [armOf_pov owns, povArm_committed_iff]

theorem exec_pov_here {s : State} {r : Slot} (here : s.slotHere = some r) :
    exec m s = .next { s with
      slots := s.slots.set s.slotIx (chainPov s.params.overflow s.cfg s.inp.nowMs r)
      povMask := if PovCommits s.cfg s.inp.nowMs r then maskCommitted s.povMask h d r.pinState else s.povMask } := by
  rw [exec_pov owns, runPov_here here, povAdvance_eq_chainPov,
    povMaskAfter_eq_maskCommitted (povOwner_direction_lt owns)]

end PovModes

/-- Settles O17: the skeleton is NORMAL's without `current_state`, and the arm that commits writes the one mask bit. -/
theorem povModesFollowTheirChain : Obligations.PovModesFollowTheirChain := by
  intro s h m d mode
  have owns : povOwner m = some (h, d) := povOwner_eq_some_iff.mpr (by simpa using mode)
  exact ⟨decodeMode_povByte owns, fun r here =>
    ⟨exec_pov_here owns here, pov_committed_iff owns s.cfg s.inp.nowMs r⟩⟩

end Sys2Proof.Proofs

namespace Sys2Proof.Proofs

open Sys2Proof.Machine
open Sys2Proof.Safety

/-! ### Steps 2 and 3 assign their samples in order (R164, R166, R168) -/

/-- What assigning a list of samples does is the spec's `Assigned` (R27, R168). -/
theorem appendAll_assigned (vs : List Bool) {s : State} (cursor : s.k ≤ s.params.N)
    (len : s.sample.length = s.params.N) : Assigned vs s (appendAll vs s) :=
  ⟨appendAll_k vs cursor, appendAll_sample vs len⟩

/-- A delivered shift-register bit is read as it is: no polarity correction (R164). -/
theorem srLevel_of_delivered {s : State} {b : Nat} {v : Bool} (h : s.inp.sr[b]? = some v) : s.srLevel b = v := by
  unfold State.srLevel
  rw [h]

theorem axLevel_of_delivered {s : State} {a : Nat} {v : Bool} (h : s.inp.ax[a]? = some v) : s.axLevel a = v := by
  unfold State.axLevel
  rw [h]

theorem exec_appendShiftreg (s : State) :
    exec .appendShiftreg s = .next (appendAll ((List.range s.cfg.srCount).map s.srLevel) s) := by
  rw [← runAppendShiftreg_eq]
  rfl

theorem exec_appendAxis (s : State) :
    exec .appendAxis s = .next (appendAll ((List.range s.cfg.axisCount).map s.axLevel) s) := by
  rw [← runAppendAxis_eq]
  rfl

/-- Settles O35: step 2 is `appendAll` of the register's bits in ascending order. -/
theorem appendShiftregAppendsEveryBit : Obligations.AppendShiftregAppendsEveryBit :=
  fun s cursor len => ⟨_, exec_appendShiftreg s, appendAll_assigned _ cursor len, appendAll_frame _ s,
    fun _ _ => srLevel_of_delivered⟩

/-- Settles O36: step 3 is `appendAll` of the axis booleans in ascending order. -/
theorem appendAxisAppendsEveryBit : Obligations.AppendAxisAppendsEveryBit :=
  fun s cursor len => ⟨_, exec_appendAxis s, appendAll_assigned _ cursor len, appendAll_frame _ s,
    fun _ _ => axLevel_of_delivered⟩

/-! ### Step 8 packs `current_state` from an empty bitmap (R41, R176) -/

theorem packSlot_none {s : State} {i : Nat} (gone : s.slots[i]? = none) : packSlot i s = s := by
  unfold packSlot
  rw [gone]

theorem packSlot_some {s : State} {i : Nat} {r : Slot} (here : s.slots[i]? = some r) :
    packSlot i s = { s with outBitmap := s.outBitmap.setBit i r.currentState } := by
  unfold packSlot
  rw [here]

/-- `current_state` of slot `i`, and 0 where there is no such slot. -/
def outputOf (s : State) (i : Nat) : Bool := s.slots[i]?.any Slot.currentState

/-- `t` is `s` with a canonical bitmap of the slots below `n`, and only of those: where step 8's walk stands after `n`
visits. -/
structure PackedBelow (s : State) (n : Nat) (t : State) : Prop where
  slots : t.slots = s.slots
  canonical : t.outBitmap.wf = true
  bits : ∀ j, t.outBitmap.bit j = (decide (j < n) && outputOf s j)

theorem packedBelow_start (s : State) : PackedBelow s 0 { s with outBitmap := [] } where
  slots := rfl
  canonical := rfl
  bits j := by simp [Memory.bit_nil]

/-- The visit of slot `n` adds bit `n` and keeps the bits below it. -/
theorem packSlot_packedBelow {s t : State} {n : Nat} (packed : PackedBelow s n t) :
    PackedBelow s (n + 1) (packSlot n t) := by
  obtain ⟨slots, canonical, bits⟩ := packed
  have otherBit (j : Nat) (ne : j ≠ n) : decide (j < n + 1) = decide (j < n) := by
    rw [decide_eq_decide]; omega
  cases slot : s.slots[n]? with
  | none =>
    rw [packSlot_none (by rw [slots, slot])]
    refine ⟨slots, canonical, fun j => ?_⟩
    by_cases e : j = n
    · subst e; simp [bits, outputOf, slot]
    · rw [bits, otherBit j e]
  | some r =>
    rw [packSlot_some (by rw [slots, slot])]
    refine ⟨slots, Memory.wf_setBit canonical n _, fun j => ?_⟩
    rw [Memory.bit_setBit canonical]
    by_cases e : j = n
    · subst e; simp [outputOf, slot]
    · rw [if_neg e, bits, otherBit j e]

theorem runRebuildBitmap_packedBelow (s : State) : PackedBelow s s.slotCount (runRebuildBitmap s) :=
  runOver_range_induct (P := PackedBelow s) s.slotCount (packedBelow_start s)
    fun _ _ _ => packSlot_packedBelow

/-- Settles O45: step 8's walk starts from the empty bitmap and each visit writes the bit of its own slot only. -/
theorem rebuildBitmapPacksEverySlot : Obligations.RebuildBitmapPacksEverySlot := by
  intro s _
  have bits := (runRebuildBitmap_packedBelow s).bits
  refine ⟨runRebuildBitmap s, rfl, fun i r lt here => ?_, fun i ge => ?_, runRebuildBitmap_frame s⟩
  · calc (runRebuildBitmap s).outBitmap.bit i
      _ = (decide (i < s.slotCount) && outputOf s i) := bits i
      _ = r.currentState := by simp [lt, outputOf, here]
  · calc (runRebuildBitmap s).outBitmap.bit i
      _ = (decide (i < s.slotCount) && outputOf s i) := bits i
      _ = false := by simp [ge]

end Sys2Proof.Proofs

namespace Sys2Proof.Proofs

open Sys2Proof.Machine

/-! ### Every instruction and every step has a next state (R190) -/

/-- A mode answers by `exec_mode`; every other instruction answers the state of its own `run…` function. -/
theorem exec_eq_next (i : Instr) (s : State) : ∃ t, exec i s = .next t := by
  cases i with
  | normal | inverted | toggle | toggleSwitch | toggleSwitchOn | toggleSwitchOff | povUp _ | povRight _ | povDown _
  | povLeft _ | modeReserved _ => exact ⟨_, exec_mode rfl s⟩
  | unused | column | row | btnGnd | btnVcc | roleReserved _ => exact ⟨_, rfl⟩
  | scanMatrix | appendShiftreg | appendAxis | appendDirect | mergeEncoder | advanceAll | resolvePov
  | rebuildBitmap => exact ⟨_, rfl⟩
  | resolve => exact ⟨runResolve s, rfl⟩

/-- At rest no instruction stands at the sequencer's position (R68, R193). -/
theorem step_idle {s : State} (h : s.seq = .idle) : step s = .next s.restStep := by
  have noInstruction : s.fetch = none := by unfold State.fetch; rw [h]; rfl
  unfold step
  rw [noInstruction, h]

theorem step_eq_next (s : State) : ∃ t, step s = .next t := by
  cases position : s.seq with
  | idle => exact ⟨_, step_idle position⟩
  | scanMatrix => exact ⟨_, step_scanMatrix position⟩
  | appendShiftreg => exact ⟨_, step_appendShiftreg position⟩
  | appendAxis => exact ⟨_, step_appendAxis position⟩
  | appendDirect => exact ⟨_, step_appendDirect position⟩
  | mergeEncoder => exact ⟨_, step_mergeEncoder position⟩
  | latch => exact ⟨_, step_latch position⟩
  | advanceAll => exact ⟨_, step_advanceAll position⟩
  | resolvePov => exact ⟨_, step_resolvePov position⟩
  | rebuildBitmap => exact ⟨_, step_rebuildBitmap position⟩

/-- Settles O7: by the constructors of the instruction, and by the ten positions of the sequencer for the step. -/
theorem nothingFaultsOrRefuses : Obligations.NothingFaultsOrRefuses :=
  ⟨exec_eq_next, step_eq_next⟩

end Sys2Proof.Proofs

namespace Sys2Proof.Proofs

/-! ### A word and the bytes after it -/

/-- Every instruction is in the table under its own word. -/
theorem inTable (i : Instr) : Laws.InTable.Statement i := by
  cases i with
  | normal => exact Laws.InTable.normal
  | inverted => exact Laws.InTable.inverted
  | toggle => exact Laws.InTable.toggle
  | toggleSwitch => exact Laws.InTable.toggleSwitch
  | toggleSwitchOn => exact Laws.InTable.toggleSwitchOn
  | toggleSwitchOff => exact Laws.InTable.toggleSwitchOff
  | povUp hat => exact Laws.InTable.povUp hat
  | povRight hat => exact Laws.InTable.povRight hat
  | povDown hat => exact Laws.InTable.povDown hat
  | povLeft hat => exact Laws.InTable.povLeft hat
  | modeReserved byte => exact Laws.InTable.modeReserved byte
  | unused => exact Laws.InTable.unused
  | column => exact Laws.InTable.column
  | row => exact Laws.InTable.row
  | btnGnd => exact Laws.InTable.btnGnd
  | btnVcc => exact Laws.InTable.btnVcc
  | roleReserved byte => exact Laws.InTable.roleReserved byte
  | scanMatrix => exact Laws.InTable.scanMatrix
  | appendShiftreg => exact Laws.InTable.appendShiftreg
  | appendAxis => exact Laws.InTable.appendAxis
  | appendDirect => exact Laws.InTable.appendDirect
  | mergeEncoder => exact Laws.InTable.mergeEncoder
  | advanceAll => exact Laws.InTable.advanceAll
  | resolvePov => exact Laws.InTable.resolvePov
  | rebuildBitmap => exact Laws.InTable.rebuildBitmap
  | resolve => exact Laws.InTable.resolve

/-- A byte of the sequencer is its ordinal's step, its upper bits being zero. -/
theorem decode_seqStep_eq_ok_iff {b : Byte} {bytes rest : List Byte} {i : Instr} :
    decode .seqStep (b :: bytes) = .ok (i, rest) ↔
      b.extractLsb' 4 4 = 0 ∧ decodeSeqStep (b.extractLsb' 0 4) = .ok i ∧ rest = bytes := by
  simp only [decode]
  by_cases zero : b.extractLsb' 4 4 = 0
  · rw [if_pos zero]
    cases step : decodeSeqStep (b.extractLsb' 0 4) <;> simp [zero, eq_comm]
  · rw [if_neg zero]
    exact iff_of_false (by nofun) fun h => zero h.1

/-- What a one-byte word decodes to does not depend on the bytes after it. -/
theorem decode_word_append {f : Format} {b : Byte} {i : Instr} (word : decode f [b] = .ok (i, []))
    (rest : List Byte) : decode f (b :: rest) = .ok (i, rest) := by
  cases f with
  | mode8 | role8 =>
    simp only [decode, Except.ok.injEq, Prod.mk.injEq, and_true] at word ⊢
    exact word
  | seqStep =>
    obtain ⟨zero, step, -⟩ := decode_seqStep_eq_ok_iff.mp word
    exact decode_seqStep_eq_ok_iff.mpr ⟨zero, step, rfl⟩
  | func => simp [decode] at word

/-- Settles O1: the table holds the one word of each instruction, and only its first byte is read. -/
theorem decodeOfEncodeIsTheInstruction : Obligations.DecodeOfEncodeIsTheInstruction := by
  intro i rest wf
  have entry := inTable i wf
  split at entry
  · next noWord =>
    obtain ⟨func, decoded⟩ := entry
    rw [func, noWord]
    simp only [decode, Except.ok.injEq, Prod.mk.injEq, and_true] at decoded
    subst decoded
    rfl
  · next w more word =>
    obtain ⟨rfl, -, decoded⟩ := entry
    rw [word]
    exact decode_word_append decoded rest

/-! ### Every word has one reading (R63, R67, R68) -/

/-- `i` is the instruction of format `f` that stands for the byte `b`. -/
def IsReading (f : Format) (b : Byte) (i : Instr) : Prop := i.wf = true ∧ i.format = f ∧ encode i = [b]

theorem decodeMode_isReading (b : Byte) : IsReading .mode8 b (decodeMode b) := by
  unfold IsReading; revert b; decide

theorem decodeRole_isReading (b : Byte) : IsReading .role8 b (decodeRole b) := by
  unfold IsReading; revert b; decide

/-- R68: the ordinals 1 to 8 and no others are steps. -/
theorem decodeSeqStep_isReading {w : BitVec 4} {i : Instr} (step : decodeSeqStep w = .ok i) :
    IsReading .seqStep (w.zeroExtend 8) i := by
  have all : ∀ w : BitVec 4, ∀ i ∈ (decodeSeqStep w).toOption,
      i.wf = true ∧ i.format = .seqStep ∧ encode i = [w.zeroExtend 8] := by decide
  exact all w i (by rw [step]; rfl)

theorem zeroExtend_ordinal {b : Byte} (upper : b.extractLsb' 4 4 = 0) :
    (b.extractLsb' 0 4).zeroExtend 8 = b := by
  revert b; decide

/-- Settles O2: by the format asked for, the byte's one reading. -/
theorem encodeOfDecodeIsTheWord : Obligations.EncodeOfDecodeIsTheWord := by
  intro f bytes rest i decoded
  have ofByte {b : Byte} {more : List Byte} (reading : IsReading f b i) (tail : rest = more) :
      i.wf = true ∧ i.format = f ∧ encode i ++ rest = b :: more := by
    obtain ⟨wf, format, word⟩ := reading
    exact ⟨wf, format, by rw [word, tail]; rfl⟩
  match f, bytes with
  | .mode8, [] | .role8, [] | .seqStep, [] => cases decoded
  | .mode8, b :: more => cases decoded; exact ofByte (decodeMode_isReading b) rfl
  | .role8, b :: more => cases decoded; exact ofByte (decodeRole_isReading b) rfl
  | .seqStep, b :: more =>
    obtain ⟨upper, step, tail⟩ := decode_seqStep_eq_ok_iff.mp decoded
    exact ofByte (zeroExtend_ordinal upper ▸ decodeSeqStep_isReading step) tail
  | .func, bytes => cases decoded; exact ⟨rfl, rfl, rfl⟩

/-! ### The rows of the opcode table -/

/-- The mnemonics of the rows that cover a word. -/
def mnemonicsAt (rows : List TableRow) (b : Byte) : List Mnemonic := (rows.filter (·.covers b)).map (·.mnemonic)

/-- One mnemonic means one row, of that mnemonic. -/
theorem exists_row_of_mnemonicsAt {rows : List TableRow} {b : Byte} {m : Mnemonic} (h : mnemonicsAt rows b = [m]) :
    ∃ r, rows.filter (fun r => r.covers b) = [r] ∧ m = r.mnemonic := by
  obtain ⟨r, rows_eq, name⟩ := List.map_eq_singleton_iff.mp h
  exact ⟨r, rows_eq, name.symm⟩

theorem mnemonicsAt_modeRows (b : Byte) : mnemonicsAt modeRows b = [(decodeMode b).mnemonic] := by
  revert b; decide

theorem mnemonicsAt_roleRows (b : Byte) : mnemonicsAt roleRows b = [(decodeRole b).mnemonic] := by
  revert b; decide

theorem mnemonicsAt_seqRows (w : BitVec 4) :
    mnemonicsAt seqRows (w.zeroExtend 8) = (decodeSeqStep w).toOption.toList.map Instr.mnemonic := by
  revert w; decide

theorem eq_noSuchStep_of_decodeSeqStep {w : BitVec 4} {e : DecodeError} (h : decodeSeqStep w = .error e) :
    e = .noSuchStep w := by
  unfold decodeSeqStep at h
  split at h <;> cases h
  rfl

/-- Settles O3: each byte has one mnemonic in its table, the decoder's; an ordinal has one or none. -/
theorem tableRowsPartitionTheWords : Obligations.TableRowsPartitionTheWords := by
  refine ⟨fun b => exists_row_of_mnemonicsAt (mnemonicsAt_modeRows b),
    fun b => exists_row_of_mnemonicsAt (mnemonicsAt_roleRows b), fun w => ?_⟩
  have rows := mnemonicsAt_seqRows w
  cases step : decodeSeqStep w with
  | ok i => rw [step] at rows; exact exists_row_of_mnemonicsAt rows
  | error e =>
    rw [step] at rows
    exact ⟨List.map_eq_nil_iff.mp rows, eq_noSuchStep_of_decodeSeqStep step⟩

/-- Settles O4: each word is evaluated by the decoder. -/
theorem writtenWordsDecode : Obligations.WrittenWordsDecode :=
  ⟨rfl, rfl, rfl, rfl, rfl, rfl, rfl, rfl⟩

end Sys2Proof.Proofs

namespace Sys2Proof.Proofs

open Sys2Proof.Machine
open Sys2Proof.Safety

/-! ### The kinds of mode -/

/-- A mode is one of the three plain ones, a switch mode, a POV mode or a reserved byte (R60, R62). -/
theorem modeCases {motive : (m : Instr) → m.format = .mode8 → Prop} (normal : motive .normal rfl)
    (inverted : motive .inverted rfl) (toggle : motive .toggle rfl)
    (switch : ∀ m mode, SwitchMode m → motive m mode)
    (pov : ∀ m mode h d, povOwner m = some (h, d) → motive m mode)
    (reserved : ∀ b, motive (.modeReserved b) rfl) (m : Instr) (mode : m.format = .mode8) : motive m mode := by
  cases m with
  | normal => exact normal
  | inverted => exact inverted
  | toggle => exact toggle
  | toggleSwitch => exact switch _ mode (.inl rfl)
  | toggleSwitchOn => exact switch _ mode (.inr (.inl rfl))
  | toggleSwitchOff => exact switch _ mode (.inr (.inr rfl))
  | povUp h | povRight h | povDown h | povLeft h => exact pov _ mode h _ rfl
  | modeReserved b => exact reserved b
  | unused | column | row | btnGnd | btnVcc | roleReserved _ => cases mode
  | scanMatrix | appendShiftreg | appendAxis | appendDirect | mergeEncoder | advanceAll | resolvePov
  | rebuildBitmap | resolve => cases mode

/-! ### The writes of the commit and of the releasing arms, by mode -/

/-- What the commit of a mode writes beside `pending` (R101, R110, R121, R140). -/
def commitOf (m : Instr) (o : Overflow) (r : Slot) : Slot :=
  match m with
  | .normal => normalCommit o r.pinState r
  | .inverted => normalCommit o (!r.pinState) r
  | .toggle => toggleCommit o r
  | .toggleSwitch | .toggleSwitchOn | .toggleSwitchOff => switchCommit o r
  | .povUp _ | .povRight _ | .povDown _ | .povLeft _ => povCommit o r
  | _ => r

theorem commitOf_switchMode {m : Instr} (mode : SwitchMode m) (o : Overflow) (r : Slot) :
    commitOf m o r = switchCommit o r := by
  obtain rfl | rfl | rfl := mode <;> rfl

theorem commitOf_pov {m : Instr} {h : Hat} {d : Nat} (owns : povOwner m = some (h, d)) (o : Overflow) (r : Slot) :
    commitOf m o r = povCommit o r := by
  obtain ⟨rfl, -⟩ | ⟨rfl, -⟩ | ⟨rfl, -⟩ | ⟨rfl, -⟩ := povOwner_eq_some_iff.mp owns <;> rfl

/-- No commit writes the sample fields (R80). -/
theorem commitOf_samples (m : Instr) (o : Overflow) (r : Slot) :
    (commitOf m o r).pinState = r.pinState ∧ (commitOf m o r).pinPrevState = r.pinPrevState := by
  unfold commitOf; split <;> exact ⟨rfl, rfl⟩

/-- No commit writes `time_last` (R16). -/
theorem commitOf_timeLast (m : Instr) (o : Overflow) (r : Slot) : (commitOf m o r).timeLast = r.timeLast := by
  unfold commitOf; split <;> rfl

theorem switchRelease_samples (m : Instr) (r : Slot) :
    (switchRelease m r).pinState = r.pinState ∧ (switchRelease m r).pinPrevState = r.pinPrevState := by
  unfold switchRelease; split <;> exact ⟨rfl, rfl⟩

theorem switchRelease_timeLast (m : Instr) (r : Slot) : (switchRelease m r).timeLast = r.timeLast := by
  unfold switchRelease; split <;> rfl

/-! ### What one advance can do to a slot record -/

/-- The records the advance of mode `m` can leave, by the arm that executes (R83 to R88); each carries the part of its
guard that the rules about an advance need. -/
inductive Advances (m : Instr) (o : Overflow) (c : Configuration) (now : U32) (r : Slot) : Slot → Prop
  | opens (idle : r.pending = false) (edge : Qualifies m r) : Advances m o c now r (opened now r)
  | commits (window : r.pending = true) (edge : Qualifies m r) (expired : debounceOver c now r = true) :
    Advances m o c now r { commitOf m o r with pending := false }
  | releases (toggle : m = .toggle) (low : r.pinState = false) (expired : debounceOver c now r = true) :
    Advances m o c now r { r with pending := false, prevState := false }
  | autoReleases (mode : SwitchMode m) (noOpen : ¬ (r.pending = false ∧ Qualifies m r))
    (noCommit : ¬ (r.pending = true ∧ Qualifies m r ∧ debounceOver c now r = true))
    (late : holdOver c now r = true) : Advances m o c now r { switchRelease m r with pending := false }
  | aborts (window : r.pending = true) (noEdge : ¬ Qualifies m r) (expired : debounceOver c now r = true) :
    Advances m o c now r (aborted r)
  | rests (noOpen : ¬ (r.pending = false ∧ Qualifies m r))
    (early : r.pending = true → debounceOver c now r = true → ∃ b, m = .modeReserved b) : Advances m o c now r r

section Chains

variable {m : Instr} {o : Overflow} {c : Configuration} {now : U32} {r : Slot}

theorem qualifies_pov {h : Hat} {d : Nat} (owns : povOwner m = some (h, d)) :
    Qualifies m r ↔ r.pinState ≠ r.prevState := by
  obtain ⟨rfl, -⟩ | ⟨rfl, -⟩ | ⟨rfl, -⟩ | ⟨rfl, -⟩ := povOwner_eq_some_iff.mp owns <;> exact Iff.rfl

/-- R100 on an effective sample, for a mode that qualifies and commits by that sample. -/
theorem chainNormal_advances {smp : Bool} (qualifies : Qualifies m r ↔ smp ≠ r.prevState)
    (commit : commitOf m o r = normalCommit o smp r) : Advances m o c now r (chainNormal smp o c now r) := by
  cases window : r.pending with
  | false =>
    by_cases edge : smp ≠ r.prevState
    · rw [chainNormal_opens window edge]; exact .opens window (qualifies.mpr edge)
    · rw [chainNormal_rests window (not_not.mp edge)]
      exact .rests (fun h => edge (qualifies.mp h.2)) (by simp [window])
  | true =>
    cases expired : debounceOver c now r with
    | false => rw [chainNormal_waits window expired]; exact .rests (by simp [window]) (by simp [expired])
    | true =>
      by_cases edge : smp ≠ r.prevState
      · rw [chainNormal_commits window edge expired, ← addPress_eq_countPlus]
        have committed := Advances.commits (o := o) window (qualifies.mpr edge) expired
        rw [commit] at committed
        exact committed
      · rw [chainNormal_aborts window (not_not.mp edge) expired]
        exact .aborts window (fun h => edge (qualifies.mp h)) expired

theorem chainOf_pov {h : Hat} {d : Nat} (owns : povOwner m = some (h, d)) :
    chainOf m o c now r = chainPov o c now r := by
  obtain ⟨rfl, -⟩ | ⟨rfl, -⟩ | ⟨rfl, -⟩ | ⟨rfl, -⟩ := povOwner_eq_some_iff.mp owns <;> rfl

theorem chainPov_advances {h : Hat} {d : Nat} (owns : povOwner m = some (h, d)) :
    Advances m o c now r (chainPov o c now r) := by
  have qualifies := qualifies_pov (r := r) owns
  unfold chainPov
  split_ifs with opens commits aborts
  · exact .opens opens.1 (qualifies.mpr opens.2)
  · obtain ⟨window, edge, expired⟩ := commits
    rw [← addPress_eq_countPlus]
    have committed := Advances.commits (o := o) window (qualifies.mpr edge) expired
    rw [commitOf_pov owns] at committed
    exact committed
  · obtain ⟨window, expired⟩ := aborts
    exact .aborts window (fun edge => commits ⟨window, qualifies.mp edge, expired⟩) expired
  · exact .rests (fun h => opens ⟨h.1, qualifies.mp h.2⟩) fun window expired => absurd ⟨window, expired⟩ aborts

theorem chainToggle_advances : Advances .toggle o c now r (chainToggle o c now r) := by
  unfold chainToggle
  split_ifs with opens commits releases aborts
  · exact .opens opens.1 opens.2
  · obtain ⟨window, high, low, expired⟩ := commits
    rw [← addPress_eq_countPlus]
    exact .commits window ⟨high, low⟩ expired
  · exact .releases rfl releases.1 releases.2
  · exact .aborts aborts.1 (fun edge => commits ⟨aborts.1, edge.1, edge.2, aborts.2⟩) aborts.2
  · exact .rests opens fun window expired => absurd ⟨window, expired⟩ aborts

theorem chainSwitch_advances (mode : SwitchMode m) :
    Advances m o c now r (chainSwitch (switchEdge m r) (switchRelease m) o c now r) := by
  have qualifies := switchEdge_iff (r := r) mode
  unfold chainSwitch
  split_ifs with opens commits late aborts
  · exact .opens opens.1 (qualifies.mp opens.2)
  · obtain ⟨window, edge, expired⟩ := commits
    rw [← addPress_eq_countPlus]
    have committed := Advances.commits (o := o) window (qualifies.mp edge) expired
    rw [commitOf_switchMode mode] at committed
    exact committed
  · rw [qualifies] at opens commits
    exact .autoReleases mode opens commits late
  · obtain ⟨window, expired⟩ := aborts
    exact .aborts window (fun edge => commits ⟨window, qualifies.mpr edge, expired⟩) expired
  · rw [qualifies] at opens
    exact .rests opens fun window expired => absurd ⟨window, expired⟩ aborts

/-- The chain of every mode does one of these. -/
theorem chainOf_advances (mode : m.format = .mode8) : Advances m o c now r (chainOf m o c now r) := by
  cases m, mode using modeCases with
  | normal => exact chainNormal_advances Iff.rfl rfl
  | inverted => exact chainNormal_advances Iff.rfl rfl
  | toggle => exact chainToggle_advances
  | switch m _ switch => rw [chainOf_eq_chainSwitch switch]; exact chainSwitch_advances switch
  | pov m _ h d owns => rw [chainOf_pov owns]; exact chainPov_advances owns
  | reserved b => exact .rests (fun h => h.2) fun _ _ => ⟨b, rfl⟩

end Chains

end Sys2Proof.Proofs

namespace Sys2Proof.Proofs

open Sys2Proof.Machine
open Sys2Proof.Safety

/-! ### The execution of a mode: its chain on the slot, its one bit of the masks -/

/-- The commit guard of a mode (R88). -/
def Commits (m : Instr) (c : Configuration) (now : U32) (r : Slot) : Prop :=
  r.pending = true ∧ Qualifies m r ∧ debounceOver c now r = true

/-- The masks after the advance of mode `m` on the record `r`: only the commit of a POV mode writes one (R140). -/
def masksAfterMode (m : Instr) (c : Configuration) (now : U32) (r : Slot) (t : Hats Mask) : Hats Mask :=
  match povOwner m with
  | some (h, d) => if PovCommits c now r then maskCommitted t h d r.pinState else t
  | none => t

section Modes

variable {m : Instr} {c : Configuration} {now : U32} {s t : State} {r r' : Slot}

theorem povCommits_iff {x : Hat × Nat} (owns : povOwner m = some x) : PovCommits c now r ↔ Commits m c now r := by
  rw [Commits, qualifies_pov (h := x.1) (d := x.2) owns]

theorem masksAfterMode_of_not_commits (noCommit : ¬ Commits m c now r) (masks : Hats Mask) :
    masksAfterMode m c now r masks = masks := by
  unfold masksAfterMode
  split
  · next owns => rw [if_neg fun commits => noCommit ((povCommits_iff owns).mp commits)]
  · rfl

theorem masksAfterMode_of_no_owner (noOwner : povOwner m = none) (masks : Hats Mask) :
    masksAfterMode m c now r masks = masks := by
  rw [masksAfterMode, noOwner]

/-- A reserved mode byte runs no chain (R86). -/
theorem execIsChain_modeReserved (b : Byte) : ExecIsChain (.modeReserved b) := by
  intro s r here
  rw [withSlotHere, chainOf, set_here here]
  rfl

theorem execIsChain_of_no_owner (mode : m.format = .mode8) (noOwner : povOwner m = none) : ExecIsChain m := by
  cases m, mode using modeCases with
  | normal => exact execIsChain_normal
  | inverted => exact execIsChain_inverted
  | toggle => exact execIsChain_toggle
  | switch m _ switch => exact execIsChain_switchMode switch
  | pov m _ h d owns => rw [owns] at noOwner; cases noOwner
  | reserved b => exact execIsChain_modeReserved b

theorem exec_mode_here (mode : m.format = .mode8) (here : s.slotHere = some r) :
    exec m s = .next { s with
      slots := s.slots.set s.slotIx (chainOf m s.params.overflow s.cfg s.inp.nowMs r)
      povMask := masksAfterMode m s.cfg s.inp.nowMs r s.povMask } := by
  cases owner : povOwner m with
  | none =>
    rw [execIsChain_of_no_owner mode owner s r here, masksAfterMode_of_no_owner owner]
    rfl
  | some x =>
    rw [exec_pov_here (h := x.1) (d := x.2) owner here, chainOf_pov (h := x.1) (d := x.2) owner, masksAfterMode, owner]

/-- Where the walk index names no slot, no mode writes anything (log 7). -/
theorem exec_mode_nowhere (mode : m.format = .mode8) (nowhere : s.slotHere = none) : exec m s = .next s := by
  cases m, mode using modeCases with
  | normal | inverted | toggle => exact congrArg _ (onSlot_nowhere nowhere _)
  | switch m mode switch => rw [exec_mode mode, runMode_switch switch, onSlot_nowhere nowhere]
  | pov m _ h d owns => rw [exec_pov owns, runPov_nowhere nowhere]
  | reserved => rfl

theorem exec_mode_slotHere (mode : m.format = .mode8) (run : exec m s = .next t) (here : s.slotHere = some r) :
    t.slotHere = some (chainOf m s.params.overflow s.cfg s.inp.nowMs r) := by
  rw [exec_mode_here mode here] at run
  cases run
  exact withSlotHere_slotHere here _

/-- What a mode leaves in its slot is one of the arms' records. -/
theorem advances_of_exec (mode : m.format = .mode8) (run : exec m s = .next t) (here : s.slotHere = some r)
    (after : t.slotHere = some r') : Advances m s.params.overflow s.cfg s.inp.nowMs r r' := by
  rw [exec_mode_slotHere mode run here] at after
  cases after
  exact chainOf_advances mode

theorem exec_mode_povMask (mode : m.format = .mode8) (run : exec m s = .next t) (here : s.slotHere = some r) :
    t.povMask = masksAfterMode m s.cfg s.inp.nowMs r s.povMask := by
  rw [exec_mode_here mode here] at run
  cases run
  rfl

theorem armOf_committed_iff (mode : m.format = .mode8) : (armOf m c now r).committed = true ↔ Commits m c now r := by
  cases m, mode using modeCases with
  | normal => exact normalArm_committed_iff _ c now r
  | inverted => exact normalArm_committed_iff _ c now r
  | toggle => exact (toggleArm_committed_iff c now r).trans (by simp [Commits, Qualifies, and_assoc])
  | switch m _ switch => exact switchMode_committed_iff switch
  | pov m _ h d owns => rw [pov_committed_iff owns, povCommits_iff owns]
  | reserved => exact iff_of_false (by nofun) fun commits => commits.2.1

end Modes

/-- Settles O16: the shared chain of the switch modes, with the edge of each. -/
theorem edgeSwitchesFollowTheirChains : Obligations.EdgeSwitchesFollowTheirChains := by
  refine ⟨rfl, rfl, fun s r here => ⟨execIsChain_switchMode (.inr (.inl rfl)) s r here,
    execIsChain_switchMode (.inr (.inr rfl)) s r here, ?_, ?_⟩⟩
  · rw [switchMode_committed_iff (.inr (.inl rfl)), Qualifies, and_assoc]
  · rw [switchMode_committed_iff (.inr (.inr rfl)), Qualifies, and_assoc]

/-- Settles O56: no write of a mode reaches past the slot at the walk index. -/
theorem advanceWithoutASlotWritesNothing : Obligations.AdvanceWithoutASlotWritesNothing :=
  fun _ _ mode nowhere => exec_mode_nowhere mode nowhere

/-- Settles O18: the arm of a reserved byte is the empty one. -/
theorem reservedModeWritesNothing : Obligations.ReservedModeWritesNothing :=
  fun _ _ _ => ⟨rfl, rfl⟩

/-- Settles O11: both thresholds compare with the elapsed time, which wraps once the clock is below `time_last`. -/
theorem comparatorsAreStrictAndWrap : Obligations.ComparatorsAreStrictAndWrap := by
  intro c now r
  have clock := now.isLt
  have last := r.timeLast.isLt
  refine ⟨?_, ?_, fun le => ?_, fun lt => ?_⟩
  · rw [deb_eq_debounceOver]; exact decide_eq_true_iff
  · rw [hold_eq_holdOver]; exact decide_eq_true_iff
  · unfold elapsedMs; omega
  · unfold elapsedMs; omega

/-! ### The fields that an advance writes, by arm -/

section Writers

variable {m : Instr} {o : Overflow} {c : Configuration} {now : U32} {r r' : Slot}

theorem Advances.samples (h : Advances m o c now r r') :
    r'.pinState = r.pinState ∧ r'.pinPrevState = r.pinPrevState := by
  cases h with
  | commits => exact commitOf_samples m o r
  | autoReleases => exact switchRelease_samples m r
  | opens | releases | aborts | rests => exact ⟨rfl, rfl⟩

theorem Advances.timeLast (h : Advances m o c now r r') (noOpen : ¬ (r.pending = false ∧ Qualifies m r)) :
    r'.timeLast = r.timeLast := by
  cases h with
  | opens idle edge => exact absurd ⟨idle, edge⟩ noOpen
  | commits => exact commitOf_timeLast m o r
  | autoReleases => exact switchRelease_timeLast m r
  | releases | aborts | rests => rfl

theorem Advances.pending (h : Advances m o c now r r') (noOpen : ¬ (r.pending = false ∧ Qualifies m r))
    (window : r'.pending = true) : r.pending = true := by
  cases h with
  | opens idle edge => exact absurd ⟨idle, edge⟩ noOpen
  | commits | autoReleases | releases | aborts => cases window
  | rests => exact window

theorem Advances.pressCount (h : Advances m o c now r r') (counted : r'.pressCount ≠ r.pressCount) :
    Commits m c now r := by
  cases h with
  | commits window edge expired => exact ⟨window, edge, expired⟩
  | autoReleases => exact absurd (switchRelease_pressCount m r) counted
  | opens | releases | aborts | rests => exact absurd rfl counted

theorem Advances.eq_opened (h : Advances m o c now r r') (idle : r.pending = false) (edge : Qualifies m r) :
    r' = opened now r := by
  cases h with
  | opens => rfl
  | commits window | aborts window => rw [idle] at window; cases window
  | releases toggle low =>
    subst toggle
    exact absurd (low.symm.trans edge.1) (by decide)
  | autoReleases _ noOpen | rests noOpen => exact absurd ⟨idle, edge⟩ noOpen

/-- The arms that write `prev_state`. -/
theorem Advances.prevState (h : Advances m o c now r r') (changed : r'.prevState ≠ r.prevState) :
    Commits m c now r ∨ (m = .toggle ∧ r.pinState = false ∧ debounceOver c now r = true) ∨
      ((m = .toggleSwitchOn ∨ m = .toggleSwitchOff) ∧ holdOver c now r = true) := by
  cases h with
  | commits window edge expired => exact .inl ⟨window, edge, expired⟩
  | releases toggle low expired => exact .inr (.inl ⟨toggle, low, expired⟩)
  | autoReleases switch _ _ late =>
    obtain rfl | edgeSwitch := switch
    · exact absurd rfl changed
    · exact .inr (.inr ⟨edgeSwitch, late⟩)
  | opens | aborts | rests => exact absurd rfl changed

end Writers

/-- Settles O21: of the arms only the commit and the auto-release write `current_state`. -/
theorem currentStateChangesOnlyInCommitOrAutoRelease : Obligations.CurrentStateChangesOnlyInCommitOrAutoRelease := by
  intro m s t r r' mode run here after changed
  cases advances_of_exec mode run here after with
  | commits window edge expired => exact .inl ⟨window, edge, expired⟩
  | autoReleases switch noOpen noCommit late =>
    exact .inr ⟨switch, noOpen, noCommit, late, switchRelease_currentState m r⟩
  | opens | releases | aborts | rests => exact absurd rfl changed

/-- Settles O22: field by field, the arms that write it. -/
theorem dynamicFieldsHaveTheirWriters : Obligations.DynamicFieldsHaveTheirWriters := by
  intro m s t r r' mode run here after
  have advances := advances_of_exec mode run here after
  exact ⟨fun ⟨idle, edge⟩ => advances.eq_opened idle edge,
    fun noOpen => ⟨advances.timeLast noOpen, advances.pending noOpen⟩, advances.pressCount, advances.prevState⟩

/-- The elapsed time is below 2^32, so it never passes the greatest threshold (R90 (d)). -/
theorem debounceOver_of_greatest {c : Configuration} (greatest : c.debounceMs = 0xFFFFFFFF#32) (now : U32) (r : Slot) :
    debounceOver c now r = false := by
  refine decide_eq_false ?_
  have wraps : elapsedMs now r.timeLast < 2 ^ 32 := Nat.mod_lt _ (by decide)
  have threshold : c.debounceMs.toNat = 2 ^ 32 - 1 := by rw [greatest]; rfl
  omega

/-- R90 (b): an open window whose time has not passed rests in the modes without auto-release. -/
theorem Advances.eq_self_of_early {m : Instr} {o : Overflow} {c : Configuration} {now : U32} {r r' : Slot}
    (h : Advances m o c now r r') (noSwitch : ¬ SwitchMode m) (window : r.pending = true)
    (early : ¬ debounceOver c now r = true) : r' = r := by
  cases h with
  | opens idle => rw [window] at idle; cases idle
  | commits _ _ expired | releases _ _ expired | aborts _ _ expired => exact absurd expired early
  | autoReleases switch => exact absurd switch noSwitch
  | rests => rfl

/-- Settles O23: the chain of these modes rests, and the masks take no commit. -/
theorem openWindowIgnoresTheSample : Obligations.OpenWindowIgnoresTheSample := by
  intro m s r mode noSwitch here window waits
  have early : debounceOver s.cfg s.inp.nowMs r = false :=
    waits.elim id fun greatest => debounceOver_of_greatest greatest _ r
  have notOver : ¬ debounceOver s.cfg s.inp.nowMs r = true := by simp [early]
  rw [exec_mode_here mode here, (chainOf_advances mode).eq_self_of_early noSwitch window notOver, set_here here,
    masksAfterMode_of_not_commits fun commits => notOver commits.2.2]

/-- R91: a window that expires without its edge closes and counts nothing, by a release, an auto-release or an abort;
of these only the auto-release writes `current_state`. -/
theorem Advances.closes_of_glitch {m : Instr} {o : Overflow} {c : Configuration} {now : U32} {r r' : Slot}
    (h : Advances m o c now r r') (defined : ∀ b, m ≠ .modeReserved b) (window : r.pending = true)
    (noEdge : ¬ Qualifies m r) (expired : debounceOver c now r = true) :
    r'.pending = false ∧ r'.pressCount = r.pressCount ∧
    (¬ SwitchMode m ∨ holdOver c now r = false ∨ r.currentState = false → r'.currentState = r.currentState) := by
  cases h with
  | opens _ edge | commits _ edge => exact absurd edge noEdge
  | releases | aborts => exact ⟨rfl, rfl, fun _ => rfl⟩
  | autoReleases switch _ _ late =>
    refine ⟨rfl, switchRelease_pressCount m r, ?_⟩
    rintro (noSwitch | early | low)
    · exact absurd switch noSwitch
    · rw [late] at early; cases early
    · exact (switchRelease_currentState m r).trans low.symm
  | rests _ early =>
    obtain ⟨b, reserved⟩ := early window expired
    exact absurd reserved (defined b)

/-- Settles O28: the window closes without a count, and no commit reaches a mask. -/
theorem glitchNeverCounts : Obligations.GlitchNeverCounts := by
  intro m s r mode defined here window noEdge expired
  obtain ⟨t, run⟩ := exec_eq_next m s
  have after := exec_mode_slotHere mode run here
  obtain ⟨closed, count, output⟩ :=
    (advances_of_exec mode run here after).closes_of_glitch defined window noEdge expired
  refine ⟨t, _, run, after, closed, count, output, ?_⟩
  rw [exec_mode_povMask mode run here, masksAfterMode_of_not_commits fun commits => noEdge commits.2.1]

/-- Settles O27: with both comparators true the commit comes first in the chain; with `hold` alone the auto-release. -/
theorem holdBelowDebounceKillsTheWindow : Obligations.HoldBelowDebounceKillsTheWindow := by
  intro m s r switch here window
  have run := execIsChain_switchMode switch s r here
  refine ⟨fun edge expired => ⟨_, _, run, withSlotHere_slotHere here _, ?_⟩,
    fun late early => ⟨_, _, run, withSlotHere_slotHere here _, ?_⟩⟩
  · rw [chainOf_eq_chainSwitch switch, chainSwitch, if_neg (by simp [window]),
      if_pos ⟨window, (switchEdge_iff switch).mpr edge, expired⟩]
    exact ⟨rfl, rfl⟩
  · rw [chainOf_switchMode_releases switch (by simp [window]) (by simp [early]) late]
    exact ⟨rfl, switchRelease_currentState m r, switchRelease_pressCount m r⟩

/-! ### A settled slot (R91) -/

/-- A settled record stays settled, output and count unchanged. -/
structure StaysSettled (m : Instr) (r r' : Slot) : Prop where
  settled : Settled m r'
  currentState : r'.currentState = r.currentState
  pressCount : r'.pressCount = r.pressCount

/-- The auto-release leaves no edge: `prev_state` is unchanged or follows the sample. -/
theorem not_qualifies_switchRelease {m : Instr} {r : Slot} (mode : SwitchMode m) (noEdge : ¬ Qualifies m r) :
    ¬ Qualifies m { switchRelease m r with pending := false } := by
  obtain rfl | rfl | rfl := mode
  · exact noEdge
  · cases pin : r.pinState <;> simp [Qualifies, switchRelease, pulseEndResync, pin]
  · cases pin : r.pinState <;> simp [Qualifies, switchRelease, pulseEndResync, pin]

theorem Advances.staysSettled {m : Instr} {o : Overflow} {c : Configuration} {now : U32} {r r' : Slot}
    (h : Advances m o c now r r') (settled : Settled m r) : StaysSettled m r r' := by
  obtain ⟨idle, noEdge, pulseOver⟩ := settled
  cases h with
  | opens _ edge | commits _ edge => exact absurd edge noEdge
  | releases toggle low =>
    subst toggle
    exact ⟨⟨rfl, fun edge => absurd (low.symm.trans edge.1) (by decide), by nofun⟩, rfl, rfl⟩
  | autoReleases switch =>
    have low := switchRelease_currentState m r
    exact ⟨⟨rfl, not_qualifies_switchRelease switch noEdge, fun _ => low⟩, low.trans (pulseOver switch).symm,
      switchRelease_pressCount m r⟩
  | aborts window => rw [idle] at window; cases window
  | rests => exact ⟨⟨idle, noEdge, pulseOver⟩, rfl, rfl⟩

theorem not_commits_of_settled {m : Instr} {r : Slot} (settled : Settled m r) (c : Configuration) (now : U32) :
    ¬ Commits m c now r := fun commits => settled.2.1 commits.2.1

/-- Settles O29: by the arm that executes. -/
theorem settledSlotStaysSettled : Obligations.SettledSlotStaysSettled := by
  intro m s r mode here settled
  obtain ⟨t, run⟩ := exec_eq_next m s
  have after := exec_mode_slotHere mode run here
  obtain ⟨stays, output, count⟩ := (advances_of_exec mode run here after).staysSettled settled
  refine ⟨t, _, run, after, stays, output, count, ?_⟩
  rw [exec_mode_povMask mode run here, masksAfterMode_of_not_commits (not_commits_of_settled settled _ _)]

end Sys2Proof.Proofs

namespace Sys2Proof.Proofs

open Sys2Proof.Machine
open Sys2Proof.Safety

/-! ### The advance of slot `i` (R80) -/

theorem decodeMode_format (b : Byte) : (decodeMode b).format = .mode8 := (decodeMode_isReading b).2.1

/-- What stands in the mode table is a mode. -/
theorem modeAt_format {s : State} {i : Nat} {m : Instr} (loaded : s.modeAt i = some m) : m.format = .mode8 := by
  obtain ⟨b, -, rfl⟩ := Option.map_eq_some_iff.mp loaded
  exact decodeMode_format b

/-- Slot `i` after its advance: the chain of its mode, if one is loaded. -/
def advancedSlot (s : State) (i : Nat) (r : Slot) : Slot :=
  match s.modeAt i with
  | some m => chainOf m s.params.overflow s.cfg s.inp.nowMs r
  | none => r

theorem advancedSlot_loaded {s : State} {i : Nat} {m : Instr} (loaded : s.modeAt i = some m) (r : Slot) :
    advancedSlot s i r = chainOf m s.params.overflow s.cfg s.inp.nowMs r := by
  rw [advancedSlot, loaded]

theorem advancedSlot_unloaded {s : State} {i : Nat} (unloaded : s.modeAt i = none) (r : Slot) :
    advancedSlot s i r = r := by
  rw [advancedSlot, unloaded]

theorem maskCommitWith_loaded {s : State} {i : Nat} {m : Instr} (loaded : s.modeAt i = some m) (t : Hats Mask)
    (r : Slot) : maskCommitWith s t i r = masksAfterMode m s.cfg s.inp.nowMs r t := by
  unfold maskCommitWith masksAfterMode
  rw [loaded]
  rfl

theorem maskCommitWith_unloaded {s : State} {i : Nat} (unloaded : s.modeAt i = none) (t : Hats Mask) (r : Slot) :
    maskCommitWith s t i r = t := by
  unfold maskCommitWith
  rw [unloaded]
  rfl

theorem advance_loaded {s : State} {i : Nat} {m : Instr} (loaded : s.modeAt i = some m) :
    exec m { s with slotIx := i } = .next (advance i s) := by
  rw [exec_mode (modeAt_format loaded), advance, loaded]

theorem advance_unloaded {s : State} {i : Nat} (unloaded : s.modeAt i = none) :
    advance i s = { s with slotIx := i } := by
  rw [advance, unloaded]

/-- The advance of a slot that does not exist writes nothing but the walk index. -/
theorem advance_nowhere {s : State} {i : Nat} (nowhere : s.slots[i]? = none) :
    advance i s = { s with slotIx := i } := by
  cases mode : s.modeAt i with
  | none => exact advance_unloaded mode
  | some m =>
    have run := advance_loaded mode
    rw [exec_mode_nowhere (s := { s with slotIx := i }) (modeAt_format mode) nowhere] at run
    exact (Host.Outcome.next.inj run).symm

/-- The advance of a slot that exists, in closed form. -/
theorem advance_here {s : State} {i : Nat} {r : Slot} (here : s.slots[i]? = some r) :
    advance i s = { s with
      slots := s.slots.set i (advancedSlot s i r), povMask := maskCommitWith s s.povMask i r, slotIx := i } := by
  cases mode : s.modeAt i with
  | none =>
    rw [advance_unloaded mode, advancedSlot_unloaded mode, maskCommitWith_unloaded mode,
      set_here (s := { s with slotIx := i }) here]
  | some m =>
    have run := advance_loaded mode
    rw [exec_mode_here (s := { s with slotIx := i }) (modeAt_format mode) here] at run
    rw [advancedSlot_loaded mode, maskCommitWith_loaded mode]
    exact (Host.Outcome.next.inj run).symm

theorem advance_slots_here (i : Nat) (s : State) : (advance i s).slots[i]? = (s.slots[i]?).map (advancedSlot s i) := by
  cases slot : s.slots[i]? with
  | none => rw [advance_nowhere slot]; exact slot
  | some r =>
    obtain ⟨inRange, -⟩ := List.getElem?_eq_some_iff.mp slot
    rw [advance_here slot]
    exact List.getElem?_set_self inRange

theorem advance_povMask (i : Nat) (s : State) : (advance i s).povMask = maskCommitAt s s.povMask i := by
  unfold maskCommitAt
  cases slot : s.slots[i]? with
  | none => rw [advance_nowhere slot]
  | some r => rw [advance_here slot]

/-- Settles O19: the advance is the execution of the mode, and its triple is read after it. -/
theorem advanceReturnsItsTriple : Obligations.AdvanceReturnsItsTriple := by
  intro s i r m here loaded
  have after : (advance i s).slots[i]? = some (chainOf m s.params.overflow s.cfg s.inp.nowMs r) := by
    rw [advance_slots_here, here, Option.map_some, advancedSlot_loaded loaded]
  refine ⟨_, _, advance_loaded loaded, after, rfl, ?_, armOf_committed_iff (modeAt_format loaded)⟩
  rw [advanceReturn, here, loaded, after]

/-! ### The frame of an advance (R19, R80, R198) -/

theorem exec_mode_frame {m : Instr} {s t : State} (mode : m.format = .mode8) (run : exec m s = .next t) :
    t = { s with slots := t.slots, povMask := t.povMask } := by
  rw [exec_mode mode] at run
  cases run
  exact runMode_frame m s

/-- A mask commit writes no other hat. -/
theorem maskCommitted_get_other (t : Hats Mask) {g h : Hat} (ne : g ≠ h) (d : Nat) (level : Bool) :
    (maskCommitted t h d level).get g = t.get g := Hats.get_set_other t _ ne

/-- A mask commit writes the bit of its own direction only. -/
theorem maskCommitted_get_off (t : Hats Mask) (h : Hat) (d : Nat) (level : Bool) :
    (maskCommitted t h d level).get h &&& ~~~(weight d) = t.get h &&& ~~~(weight d) := by
  have bit (m w : Mask) : (if level = true then m ||| w else m &&& ~~~w) &&& ~~~w = m &&& ~~~w := by
    revert m w level; decide
  rw [maskCommitted, Hats.get_set_same]
  exact bit _ _

/-- A POV mode changes no mask bit but its own. -/
theorem masksAfterMode_off {m : Instr} {h : Hat} {d : Nat} (owns : povOwner m = some (h, d)) (c : Configuration)
    (now : U32) (r : Slot) (t : Hats Mask) :
    (∀ g, g ≠ h → (masksAfterMode m c now r t).get g = t.get g) ∧
    (masksAfterMode m c now r t).get h &&& ~~~(weight d) = t.get h &&& ~~~(weight d) := by
  rw [masksAfterMode, owns]
  dsimp only
  split
  · exact ⟨fun g ne => maskCommitted_get_other t ne d _, maskCommitted_get_off t h d _⟩
  · exact ⟨fun _ _ => rfl, rfl⟩

/-- The masks after the execution of a mode: those of its record, or unchanged where there is none. -/
theorem exec_mode_povMask_cases {m : Instr} {s t : State} (mode : m.format = .mode8) (run : exec m s = .next t) :
    t.povMask = s.povMask ∨ ∃ r, t.povMask = masksAfterMode m s.cfg s.inp.nowMs r s.povMask := by
  cases slot : s.slotHere with
  | none => rw [exec_mode_nowhere mode slot] at run; cases run; exact .inl rfl
  | some r => exact .inr ⟨r, exec_mode_povMask mode run slot⟩

/-- Settles O20: the frame of the whole state, then slots, own record, masks and bitmaps in turn. -/
theorem advanceFrame : Obligations.AdvanceFrame := by
  intro m s t mode run
  have frame := exec_mode_frame mode run
  have isRun : t = runMode m s := by
    rw [exec_mode mode] at run; exact (Host.Outcome.next.inj run).symm
  have masks := exec_mode_povMask_cases mode run
  refine ⟨frame, ?_, fun j ne => ?_, fun r r' here after => ?_, fun noOwner => ?_, fun h d owns => ?_, fun j => ?_⟩
  · rw [isRun, runMode_slots_length]
  · rw [isRun, runMode_slots_other m ne]
  · have slotIx : t.slotIx = s.slotIx := by rw [frame]
    exact (advances_of_exec mode run here (by rw [State.slotHere, slotIx, after])).samples
  · obtain same | ⟨r, masked⟩ := masks
    · exact same
    · rw [masked, masksAfterMode_of_no_owner noOwner]
  · obtain same | ⟨r, masked⟩ := masks
    · rw [same]; exact ⟨fun _ _ => rfl, rfl⟩
    · rw [masked]; exact masksAfterMode_off owns _ _ r _
  · rw [frame]; exact ⟨rfl, rfl⟩

/-! ### Step 6 (R172) -/

/-- A walk is the fold of its visit. -/
theorem runOver_eq_foldl {f : Nat → State → State} {g : State → Nat → State} (visit : ∀ n s, f n s = g s n)
    (l : List Nat) (s : State) : runOver f l s = l.foldl g s := by
  induction l generalizing s with
  | nil => rfl
  | cons n l ih => rw [runOver_cons, List.foldl_cons, visit, ih]

theorem advance_eq_modeVisit (i : Nat) (s : State) : advance i s = modeVisit s i := by
  unfold modeVisit
  cases byte : s.cfg.mode[i]? with
  | none => exact advance_unloaded (by rw [State.modeAt, byte]; rfl)
  | some b =>
    have loaded : s.modeAt i = some (decodeMode b) := by rw [State.modeAt, byte]; rfl
    simp only [decode, advance_loaded loaded, answerOr]

/-- Settles O41: each advance is the execution of the decoded mode byte. -/
theorem advanceAllExecutesTheDecodedModes : Obligations.AdvanceAllExecutesTheDecodedModes := by
  intro s
  rw [← runOver_eq_foldl advance_eq_modeVisit]
  rfl

/-- Advances leave everything that the next advance reads beside the slots and the masks. -/
structure SameReads (s t : State) : Prop where
  params : t.params = s.params
  cfg : t.cfg = s.cfg
  inp : t.inp = s.inp

theorem SameReads.advancedSlot {s t : State} (same : SameReads s t) : advancedSlot t = advancedSlot s := by
  funext i r
  unfold Proofs.advancedSlot State.modeAt
  rw [same.params, same.cfg, same.inp]

theorem SameReads.maskCommitWith {s t : State} (same : SameReads s t) : maskCommitWith t = maskCommitWith s := by
  funext masks i r
  unfold Safety.maskCommitWith State.modeAt
  rw [same.cfg, same.inp]

theorem advances_sameReads (l : List Nat) (s : State) : SameReads s (runOver advance l s) := by
  rw [advances_frame]
  exact ⟨rfl, rfl, rfl⟩

/-- A walk whose visit of `n` updates entry `n` of a list, and no other, updates every entry it has been at. -/
theorem runOver_range_getElem? {α : Type} (g : State → List α) {f : Nat → State → State} {update : Nat → α → α}
    {s : State} (visit : ∀ n j, (g (runOver f (List.range (n + 1)) s))[j]? =
      if j = n then ((g (runOver f (List.range n) s))[j]?).map (update n) else (g (runOver f (List.range n) s))[j]?)
    (n j : Nat) :
    (g (runOver f (List.range n) s))[j]? = if j < n then ((g s)[j]?).map (update j) else (g s)[j]? := by
  induction n with
  | zero => rfl
  | succ n ih =>
    rw [visit, ih]
    by_cases e : j = n
    · subst e; simp
    · simp only [if_neg e, show j < n + 1 ↔ j < n by omega]

/-- Where the walk of advances has been, each slot is advanced; elsewhere it is as before. -/
theorem advances_slots (s : State) (n j : Nat) :
    (runOver advance (List.range n) s).slots[j]? =
      if j < n then (s.slots[j]?).map (advancedSlot s j) else s.slots[j]? := by
  refine runOver_range_getElem? State.slots (fun n j => ?_) n j
  rw [runOver_range_succ]
  split
  · next e =>
    subst e
    rw [advance_slots_here, (advances_sameReads _ s).advancedSlot]
  · next ne => exact advance_slots_other n ne

/-- The commits are made in slot order, each by the record of its slot before the walk. -/
theorem advances_povMask (s : State) (n : Nat) :
    (runOver advance (List.range n) s).povMask = (List.range n).foldl (maskCommitAt s) s.povMask := by
  induction n with
  | zero => rfl
  | succ n ih =>
    rw [runOver_range_succ, List.range_succ, List.foldl_append, ← ih, advance_povMask]
    unfold maskCommitAt
    rw [advances_ahead s (Nat.le_refl n), (advances_sameReads _ s).maskCommitWith]
    rfl

theorem runAdvanceAll_slots (s : State) (j : Nat) :
    (runAdvanceAll s).slots[j]? =
      if j < s.slotCount then (s.slots[j]?).map (advancedSlot s j) else s.slots[j]? := advances_slots s s.slotCount j

theorem runAdvanceAll_povMask (s : State) :
    (runAdvanceAll s).povMask = (List.range s.slotCount).foldl (maskCommitAt s) s.povMask :=
  advances_povMask s s.slotCount

/-- Settles O42: the walk's slots, its masks and its frame. -/
theorem advanceAllAdvancesEverySlot : Obligations.AdvanceAllAdvancesEverySlot := by
  refine fun s => ⟨runAdvanceAll s, rfl, fun i r m lt here loaded => ?_, fun i untouched => ?_,
    runAdvanceAll_povMask s, runAdvanceAll_frame s⟩
  · rw [runAdvanceAll_slots, if_pos lt, here, Option.map_some, advancedSlot_loaded loaded]
  · rw [runAdvanceAll_slots]
    split
    · next lt =>
      have unloaded := untouched.resolve_left (by omega)
      rw [funext (advancedSlot_unloaded unloaded), Option.map_id']
    · rfl

end Sys2Proof.Proofs

namespace Sys2Proof.Proofs

open Sys2Proof.Machine
open Sys2Proof.Safety

/-! ### The roles of the pins (R66, R67, R163, R167) -/

/-- Settles O30: both roles execute the empty operation. -/
theorem unusedAndReservedRolesProduceNoSlot : Obligations.UnusedAndReservedRolesProduceNoSlot :=
  fun _ _ => ⟨rfl, rfl⟩

theorem pinLevel_of_delivered {s : State} {p : Nat} {v : Bool} (h : s.inp.pin[p]? = some v) : s.pinLevel p = v := by
  unfold State.pinLevel
  rw [h]

theorem matrixLevel_of_delivered {s : State} {c r : Nat} {levels : List Bool} {v : Bool}
    (column : s.inp.matrix[c]? = some levels) (row : levels[r]? = some v) : s.matrixLevel c r = v := by
  unfold State.matrixLevel
  rw [column]
  dsimp only
  rw [row]

theorem exec_btnGnd (s : State) : exec .btnGnd s = .next (s.appendSample (!(s.pinLevel s.pinIx))) := rfl

theorem exec_btnVcc (s : State) : exec .btnVcc s = .next (s.appendSample (s.pinLevel s.pinIx)) := rfl

/-- Settles O31: each kind of direct pin assigns one sample, its level read with its own polarity. -/
theorem directPinsTakeASlot : Obligations.DirectPinsTakeASlot := by
  refine fun s => ⟨fun room => ?_, fun full => ?_, fun _ => pinLevel_of_delivered⟩
  · rw [exec_btnGnd, exec_btnVcc, appendSample_room room, appendSample_room room]; exact ⟨rfl, rfl⟩
  · rw [exec_btnGnd, exec_btnVcc, appendSample_full full, appendSample_full full]; exact ⟨rfl, rfl⟩

theorem exec_row_undriven {s : State} (undriven : s.columnDrive = none) : exec .row s = .next s := by
  show Host.Outcome.next (runRow s) = _
  rw [runRow, undriven]

theorem exec_row_driven {s : State} {c : Nat} (driven : s.columnDrive = some c) :
    exec .row s = .next (s.appendSample
      (!(s.matrixLevel (s.pinsBelow .column c).length (s.pinsBelow .row s.pinIx).length))) := by
  show Host.Outcome.next (runRow s) = _
  rw [runRow, driven]

/-- Settles O32: a row assigns the inverted level of its crossing with the driven column. -/
theorem rowSamplesTheDrivenColumn : Obligations.RowSamplesTheDrivenColumn := by
  refine fun s => ⟨exec_row_undriven, fun c driven full => ?_, fun c levels v driven room column row => ?_,
    fun c driven room => ?_⟩
  · rw [exec_row_driven driven, appendSample_full full]
  · rw [exec_row_driven driven, matrixLevel_of_delivered column row, appendSample_room room]
  · exact ⟨_, by rw [exec_row_driven driven, appendSample_room room]⟩

/-! ### The walks over the pins execute the decoded roles -/

/-- A role that is looked for is executed where it stands; a pin without a role byte is unused (log 12). -/
theorem pinVisit_eq {want : Instr} (used : want ≠ .unused) (s : State) (p : Nat) :
    pinVisit want s p = if s.roleAt p = want then answerOr s (exec want { s with pinIx := p }) else s := by
  unfold pinVisit State.roleAt
  cases byte : s.cfg.pinRole[p]? with
  | none => exact (if_neg used.symm).symm
  | some b =>
    simp only [decode]
    split
    · next role => rw [role]
    · rfl

theorem columnVisit_eq_pinVisit (p : Nat) (s : State) : columnVisit p s = pinVisit .column s p := by
  rw [pinVisit_eq (by decide)]
  rfl

theorem rowVisit_eq_pinVisit (p : Nat) (s : State) : rowVisit p s = pinVisit .row s p := by
  rw [pinVisit_eq (by decide)]
  rfl

theorem roleAt_congr {s t : State} (cfg : t.cfg = s.cfg) (p : Nat) : t.roleAt p = s.roleAt p := by
  unfold State.roleAt
  rw [cfg]

/-- A pin is one kind of direct button at most, so the two visits of a pin are one. -/
theorem directVisit_eq_buttonVisit (p : Nat) (s : State) : directVisit p s = buttonVisit s p := by
  unfold buttonVisit directVisit
  rw [pinVisit_eq (by decide), pinVisit_eq (by decide)]
  by_cases ground : s.roleAt p = .btnGnd
  · rw [if_pos ground, if_pos ground]
    have role : (answerOr s (exec .btnGnd { s with pinIx := p })).roleAt p = .btnGnd :=
      (roleAt_congr (State.appendSample_cfg _ { s with pinIx := p }) p).trans ground
    rw [role, if_neg (by decide)]
    rfl
  · rw [if_neg ground, if_neg ground]
    rfl

/-- Settles O40: each walk is the fold of the visits that decode the role byte. -/
theorem walksExecuteTheDecodedRoles : Obligations.WalksExecuteTheDecodedRoles := by
  refine fun s => ⟨?_, ?_, _, rfl, ?_⟩
  · rw [← runOver_eq_foldl columnVisit_eq_pinVisit]; rfl
  · rw [← runOver_eq_foldl rowVisit_eq_pinVisit]; rfl
  · rw [← runOver_eq_foldl directVisit_eq_buttonVisit]; rfl

/-! ### Steps 1 and 4 assign their samples in order (R163, R167, R168) -/

theorem exec_column (s : State) :
    exec .column s = .next { appendAll (columnSamples s s.pinIx) s with columnDrive := none } := by
  rw [← runColumn_eq]; rfl

theorem exec_scanMatrix {s : State} (undriven : s.columnDrive = none) :
    exec .scanMatrix s = .next { appendAll (matrixSamples s) s with pinIx := 0 } := by
  rw [← runScanMatrix_eq s undriven]; rfl

theorem exec_appendDirect (s : State) :
    exec .appendDirect s = .next { appendAll (directSamples s) s with
      pinIx := 0, slotCount := (appendAll (directSamples s) s).k } := by
  rw [← runAppendDirect_eq]; rfl

/-- Settles O33: a column assigns the samples of its rows. -/
theorem columnSamplesEveryRow : Obligations.ColumnSamplesEveryRow :=
  fun s cursor len => ⟨_, exec_column s, appendAll_assigned _ cursor len, by rw [appendAll_frame]⟩

/-- Settles O34: the columns one after the other assign the matrix samples. -/
theorem scanMatrixAssignsColumnMajor : Obligations.ScanMatrixAssignsColumnMajor :=
  fun s cursor len undriven => ⟨_, exec_scanMatrix undriven, appendAll_assigned _ cursor len, by rw [appendAll_frame]⟩

/-- Settles O37: step 4 assigns the direct buttons and copies the cursor. -/
theorem appendDirectAppendsEveryButton : Obligations.AppendDirectAppendsEveryButton :=
  fun s cursor len => ⟨_, exec_appendDirect s, appendAll_assigned _ cursor len, by rw [appendAll_frame]⟩

/-- Settles O38: with the cursor at N assigning samples is the identity. -/
theorem fullTableDropsInputs : Obligations.FullTableDropsInputs := by
  intro s full undriven walkAtRest
  have same : ({ s with pinIx := 0 } : State) = s := by rw [← walkAtRest]
  refine ⟨?_, ?_, ?_, ?_⟩
  · rw [exec_scanMatrix undriven, appendAll_full _ full, same]
  · rw [exec_appendShiftreg, appendAll_full _ full]
  · rw [exec_appendAxis, appendAll_full _ full]
  · rw [exec_appendDirect, appendAll_full _ full, ← walkAtRest]

/-! ### Step 5 (R169) -/

/-- Sample `i` with the encoder's value, where one is present. -/
def mergedSample (s : State) (i : Nat) (v : Bool) : Bool := (s.encAt i).getD v

section Merge

variable {s : State} {i : Nat}

theorem mergedSample_absent (absent : s.encAt i = none) : mergedSample s i = id := by
  funext v; rw [mergedSample, absent]; rfl

theorem mergedSample_present {v : Bool} (present : s.encAt i = some v) : mergedSample s i = fun _ => v := by
  funext u; rw [mergedSample, present]; rfl

theorem mergedSample_congr {t : State} (inp : t.inp = s.inp) : mergedSample t = mergedSample s := by
  unfold mergedSample State.encAt
  rw [inp]

theorem mergeSlot_absent (absent : s.encAt i = none) : mergeSlot i s = s := by
  rw [mergeSlot, absent]

theorem mergeSlot_present {v : Bool} (present : s.encAt i = some v) :
    mergeSlot i s = { s with sample := s.sample.set i v } := by
  rw [mergeSlot, present]

end Merge

theorem mergeSlot_sample (i j : Nat) (s : State) :
    (mergeSlot i s).sample[j]? = if j = i then (s.sample[j]?).map (mergedSample s i) else s.sample[j]? := by
  cases value : s.encAt i with
  | none => rw [mergeSlot_absent value, mergedSample_absent value, Option.map_id_fun, id, ite_self]
  | some v =>
    rw [mergeSlot_present value, mergedSample_present value]
    by_cases e : j = i
    · subst e
      by_cases inRange : j < s.sample.length <;> simp [inRange]
    · rw [if_neg e, List.getElem?_set_ne (Ne.symm e)]

theorem runMergeEncoder_sample (s : State) (j : Nat) :
    (runMergeEncoder s).sample[j]? =
      if j < s.slotCount then (s.sample[j]?).map (mergedSample s j) else s.sample[j]? := by
  refine runOver_range_getElem? State.sample (fun n j => ?_) s.slotCount j
  have inp : (runOver mergeSlot (List.range n) s).inp = s.inp := runOver_field State.inp mergeSlot_inp _ s
  rw [runOver_range_succ, mergeSlot_sample, mergedSample_congr inp]

/-- Settles O39: the merged samples below `slot_count`, and the frame of step 5. -/
theorem mergeEncoderReplacesSamples : Obligations.MergeEncoderReplacesSamples := by
  refine fun s fits => ⟨runMergeEncoder s, rfl, fun i v lt present => ?_, fun i untouched => ?_,
    runMergeEncoder_frame s, runMergeEncoder_length s⟩
  · rw [runMergeEncoder_sample, if_pos lt, List.getElem?_eq_getElem (by omega), mergedSample_present present]
    rfl
  · rw [runMergeEncoder_sample]
    split
    · next lt =>
      have absent := untouched.resolve_right (by omega)
      rw [mergedSample_absent absent, Option.map_id_fun, id]
    · rfl

/-! ### The latch (R171) -/

/-- A record that takes a sample, if there is one. -/
def takeSample (sample : Option Bool) (r : Slot) : Slot :=
  match sample with
  | none => r
  | some level => takeLevel level r

theorem latchSlot_slots (i j : Nat) (s : State) :
    (State.latchSlot i s).slots[j]? = if j = i then (s.slots[j]?).map (takeSample s.sample[i]?) else s.slots[j]? := by
  unfold State.latchSlot
  cases s.sample[i]? with
  | none => rw [show takeSample none = id from rfl, Option.map_id_fun, id, ite_self]
  | some v =>
    by_cases e : j = i
    · subst e; rw [if_pos rfl]; exact List.getElem?_modify_eq _ _ _
    · rw [if_neg e]; exact List.getElem?_modify_ne _ _ (Ne.symm e)

theorem latchAll_slots (s : State) (j : Nat) :
    s.latchAll.slots[j]? =
      if j < s.slotCount then (s.slots[j]?).map (takeSample s.sample[j]?) else s.slots[j]? := by
  refine runOver_range_getElem? (update := fun j => takeSample s.sample[j]?) State.slots (fun n j => ?_) s.slotCount j
  have sample : (runOver State.latchSlot (List.range n) s).sample = s.sample :=
    runOver_field State.sample State.latchSlot_sample _ s
  rw [runOver_range_succ, latchSlot_slots, sample]

/-- Settles O10: slot by slot, and the frame of the latch. -/
theorem latchTakesTheSamples : Obligations.LatchTakesTheSamples := by
  intro s position _
  refine ⟨_, step_latch position, fun i r v lt here sampled => ?_, fun i ge => ?_, by rw [latchAll_frame]⟩
  · show s.latchAll.slots[i]? = _
    rw [latchAll_slots, if_pos lt, here, sampled]
    rfl
  · show s.latchAll.slots[i]? = _
    rw [latchAll_slots, if_neg (by omega)]

/-! ### Step 7 and RESOLVE (R150 to R153, R175) -/

/-- Settles O43: RESOLVE has no word, step 7 executes it for each hat, and the table is evaluated mask by mask. -/
theorem resolveIsTheTable : Obligations.ResolveIsTheTable :=
  ⟨rfl, fun _ => rfl, rfl, rfl, rfl, rfl, rfl, rfl, rfl, rfl, rfl, rfl, rfl, rfl, rfl, rfl, rfl, rfl⟩

/-- Settles O44: the closed form of step 7. -/
theorem resolveWritesTheCodes : Obligations.ResolveWritesTheCodes := fun s => by
  rw [← runResolvePov_eq]; rfl

/-- Settles O57: RESOLVE is one write of the code register. -/
theorem resolveWritesItsHatsCode : Obligations.ResolveWritesItsHatsCode :=
  fun s => ⟨runResolve s, rfl, Hats.get_set_same _ _ _, fun _ ne => Hats.get_set_other _ _ ne, rfl⟩

/-! ### The bitmap memory (R41, R176) -/

/-- Settles O58: the laws of the memory, and the canonical bitmap that step 8 packs. -/
theorem bitmapKeepsItsCanonicalForm : Obligations.BitmapKeepsItsCanonicalForm := by
  refine ⟨fun m j v wf => ⟨Memory.wf_write j v wf, fun a => ?_⟩, fun m n wfM wfN => Memory.ext wfM wfN,
    fun s t run => ?_⟩
  · split
    · next e => subst e; exact Memory.read_write_same m a v wf
    · next ne => exact Memory.read_write_other m v ne
  · cases run
    exact (runRebuildBitmap_packedBelow s).canonical

end Sys2Proof.Proofs

namespace Sys2Proof.Proofs

open Sys2Proof.Machine
open Sys2Proof.Safety

/-! ### A step reads the word of its position (R68, R162) -/

/-- Every ordinal of the sequencer is a word that decodes to a well-formed step. -/
theorem ordinal_decodes {p : SeqPos} {w : BitVec 4} (ordinal : p.ordinal = some w) :
    ∃ i, decodeSeqStep w = .ok i ∧ decode .seqStep [w.zeroExtend 8] = .ok (i, []) ∧ i.wf = true := by
  cases p with
  | idle | latch => cases ordinal
  | scanMatrix | appendShiftreg | appendAxis | appendDirect | mergeEncoder | advanceAll | resolvePov
  | rebuildBitmap => cases ordinal; exact ⟨_, rfl, rfl, rfl⟩

/-- Settles O5: the word is fetched, executed, and the position left. -/
theorem stepRunsTheDecodedInstruction : Obligations.StepRunsTheDecodedInstruction := by
  intro s w ordinal
  obtain ⟨i, step_eq, decoded, wf⟩ := ordinal_decodes ordinal
  obtain ⟨t, run⟩ := exec_eq_next i s
  refine ⟨i, t, decoded, wf, run, ?_⟩
  rw [step, fetch_at rfl ordinal step_eq]
  simp only [run]

/-! ### Rest and requests (R193, R194) -/

theorem requestCycle_idle {s : State} (rest : s.seq = .idle) (x : CycleInput) : s.requestCycle x = s.accept x := by
  simp [State.requestCycle, State.busy, rest]

theorem requestCycle_busy {s : State} (busy : s.seq ≠ .idle) (x : CycleInput) : s.requestCycle x = s := by
  simp [State.requestCycle, State.busy, busy]

theorem restStep_nil {s : State} (none : s.stimulus = []) : s.restStep = s := by
  rw [State.restStep, none]

theorem restStep_cons {s : State} (rest : s.seq = .idle) {x : CycleInput} {later : List CycleInput}
    (next : s.stimulus = x :: later) :
    s.restStep =
      { s with stimulus := later, inp := x, k := 0, seq := .scanMatrix, cycles := s.cycles + 1 } := by
  rw [State.restStep, next]
  exact requestCycle_idle (s := { s with stimulus := later }) rest x

/-- Settles O8: at rest the step looks at the schedule only. -/
theorem restWaitsForARequest : Obligations.RestWaitsForARequest := by
  refine fun s rest => ⟨fun none => ?_, fun x later next => ?_⟩
  · rw [step_idle rest, restStep_nil none]
  · rw [step_idle rest, restStep_cons rest next]

/-- Settles O9: the request is dropped inside a cycle and accepted at rest. -/
theorem requestWhileBusyIsIgnored : Obligations.RequestWhileBusyIsIgnored := by
  refine fun s x => ⟨fun busy => requestCycle_busy busy x, fun rest => ?_⟩
  rw [requestCycle_idle rest]
  exact ⟨rfl, rfl⟩

/-! ### What one step writes -/

/-- The bits of step 2 (R164). -/
def registerSamples (s : State) : List Bool := (List.range s.cfg.srCount).map s.srLevel

/-- The booleans of step 3 (R166). -/
def axisSamples (s : State) : List Bool := (List.range s.cfg.axisCount).map s.axLevel

/-- The states one step can leave, each as the fields it writes. -/
inductive StepWrites (s : State) : State → Prop
  | waits (rest : s.seq = .idle) (noRequest : s.stimulus = []) : StepWrites s s
  | accepts (rest : s.seq = .idle) {x : CycleInput} {later : List CycleInput} (request : s.stimulus = x :: later) :
    StepWrites s { s with
      stimulus := later, inp := x, k := 0, seq := .scanMatrix, cycles := s.cycles + 1 }
  | scanMatrix (position : s.seq = .scanMatrix) : StepWrites s { s with
      sample := (runScanMatrix s).sample, k := (runScanMatrix s).k, columnDrive := (runScanMatrix s).columnDrive
      pinIx := 0, seq := .appendShiftreg }
  | appendShiftreg (position : s.seq = .appendShiftreg) : StepWrites s { s with
      sample := (appendAll (registerSamples s) s).sample, k := (appendAll (registerSamples s) s).k
      seq := .appendAxis }
  | appendAxis (position : s.seq = .appendAxis) : StepWrites s { s with
      sample := (appendAll (axisSamples s) s).sample, k := (appendAll (axisSamples s) s).k, seq := .appendDirect }
  | appendDirect (position : s.seq = .appendDirect) : StepWrites s { s with
      sample := (appendAll (directSamples s) s).sample, k := (appendAll (directSamples s) s).k
      slotCount := (appendAll (directSamples s) s).k, pinIx := 0, seq := .mergeEncoder }
  | mergeEncoder (position : s.seq = .mergeEncoder) : StepWrites s { s with
      sample := (runMergeEncoder s).sample, seq := .latch }
  | latch (position : s.seq = .latch) : StepWrites s { s with slots := s.latchAll.slots, seq := .advanceAll }
  | advanceAll (position : s.seq = .advanceAll) : StepWrites s { s with
      slots := (runAdvanceAll s).slots, povMask := (runAdvanceAll s).povMask, slotIx := 0, seq := .resolvePov }
  | resolvePov (position : s.seq = .resolvePov) : StepWrites s { s with
      povCode := ⟨resolveMask s.povMask.h0, resolveMask s.povMask.h1, resolveMask s.povMask.h2,
        resolveMask s.povMask.h3⟩
      hatIx := 0, seq := .rebuildBitmap }
  | rebuildBitmap (position : s.seq = .rebuildBitmap) : StepWrites s { s with
      outBitmap := (runRebuildBitmap s).outBitmap, shownBitmap := (runRebuildBitmap s).outBitmap
      shownCode := s.povCode, seq := .idle }

theorem step_mergeEncoder_writes {s : State} (position : s.seq = .mergeEncoder) :
    step s = .next { s with sample := (runMergeEncoder s).sample, seq := .latch } := by
  rw [step_mergeEncoder position, runMergeEncoder_frame]

theorem step_latch_writes {s : State} (position : s.seq = .latch) :
    step s = .next { s with slots := s.latchAll.slots, seq := .advanceAll } := by
  rw [step_latch position, latchAll_frame]

theorem step_advanceAll_writes {s : State} (position : s.seq = .advanceAll) :
    step s = .next { s with
      slots := (runAdvanceAll s).slots, povMask := (runAdvanceAll s).povMask, slotIx := 0, seq := .resolvePov } := by
  rw [step_advanceAll position, runAdvanceAll_frame]

theorem step_resolvePov_writes {s : State} (position : s.seq = .resolvePov) :
    step s = .next { s with
      povCode := ⟨resolveMask s.povMask.h0, resolveMask s.povMask.h1, resolveMask s.povMask.h2,
        resolveMask s.povMask.h3⟩
      hatIx := 0, seq := .rebuildBitmap } := by
  rw [step_resolvePov position, runResolvePov_eq]

theorem step_rebuildBitmap_writes {s : State} (position : s.seq = .rebuildBitmap) :
    step s = .next { s with
      outBitmap := (runRebuildBitmap s).outBitmap, shownBitmap := (runRebuildBitmap s).outBitmap
      shownCode := s.povCode, seq := .idle } := by
  rw [step_rebuildBitmap position, runRebuildBitmap_frame]
  rfl

/-- Every step writes the fields of its position, and no others (R162, R198). -/
theorem step_writes {s t : State} (run : step s = .next t) : StepWrites s t := by
  cases position : s.seq with
  | idle =>
    rw [step_idle position] at run
    cases run
    cases schedule : s.stimulus with
    | nil => rw [restStep_nil schedule]; exact .waits position schedule
    | cons x later => rw [restStep_cons position schedule]; exact .accepts position schedule
  | scanMatrix =>
    rw [step_scanMatrix position, runScanMatrix_frame] at run
    cases run
    exact .scanMatrix position
  | appendShiftreg =>
    rw [step_appendShiftreg position, runAppendShiftreg_eq, appendAll_frame] at run
    cases run
    exact .appendShiftreg position
  | appendAxis =>
    rw [step_appendAxis position, runAppendAxis_eq, appendAll_frame] at run
    cases run
    exact .appendAxis position
  | appendDirect =>
    rw [step_appendDirect position, runAppendDirect_eq, appendAll_frame] at run
    cases run
    exact .appendDirect position
  | mergeEncoder =>
    rw [step_mergeEncoder_writes position] at run
    cases run
    exact .mergeEncoder position
  | latch =>
    rw [step_latch_writes position] at run
    cases run
    exact .latch position
  | advanceAll =>
    rw [step_advanceAll_writes position] at run
    cases run
    exact .advanceAll position
  | resolvePov =>
    rw [step_resolvePov_writes position] at run
    cases run
    exact .resolvePov position
  | rebuildBitmap =>
    rw [step_rebuildBitmap_writes position] at run
    cases run
    exact .rebuildBitmap position

/-! ### Order, ownership, outputs (R46, R51, R162, R198) -/

theorem step_seq {s t : State} (run : step s = .next t) (busy : s.seq ≠ .idle) : t.seq = s.seq.after := by
  cases step_writes run with
  | waits rest => exact absurd rest busy
  | accepts rest => exact absurd rest busy
  | scanMatrix position | appendShiftreg position | appendAxis position | appendDirect position
  | mergeEncoder position | latch position | advanceAll position | resolvePov position
  | rebuildBitmap position => rw [position]; rfl

/-- Settles O6: a step inside a cycle goes to the position after its own. -/
theorem stepsRunInFixedOrder : Obligations.StepsRunInFixedOrder := by
  intro s t run
  have next {p : SeqPos} (inner : p ≠ .idle) (position : s.seq = p) : t.seq = p.after := by
    rw [step_seq run (position ▸ inner), position]
  exact ⟨next (by decide), next (by decide), next (by decide), next (by decide), next (by decide), next (by decide),
    next (by decide), next (by decide), next (by decide)⟩

/-- No step writes the configuration or the parameters (R51). -/
theorem step_cfg_params {s t : State} (run : step s = .next t) : t.cfg = s.cfg ∧ t.params = s.params := by
  cases step_writes run <;> exact ⟨rfl, rfl⟩

/-- Settles O51: only the acceptance of a request writes the inputs. -/
theorem configurationAndInputsAreFixed : Obligations.ConfigurationAndInputsAreFixed := by
  intro s t run
  obtain ⟨cfg, params⟩ := step_cfg_params run
  refine ⟨cfg, params, fun busy => ?_⟩
  cases step_writes run with
  | accepts rest => exact absurd rest busy
  | waits | scanMatrix | appendShiftreg | appendAxis | appendDirect | mergeEncoder | latch | advanceAll
  | resolvePov | rebuildBitmap => exact ⟨rfl, rfl⟩

/-- Settles O52: the snapshot is written by the last step of a cycle. -/
theorem outputsChangeOnlyAtTheEndOfACycle : Obligations.OutputsChangeOnlyAtTheEndOfACycle := by
  intro s t run
  cases step_writes run with
  | rebuildBitmap position => exact ⟨fun inner => absurd position inner, fun _ => ⟨rfl, rfl, rfl⟩⟩
  | waits position => exact ⟨fun _ => rfl, fun last => by rw [position] at last; cases last⟩
  | accepts position => exact ⟨fun _ => rfl, fun last => by rw [position] at last; cases last⟩
  | scanMatrix position | appendShiftreg position | appendAxis position | appendDirect position
  | mergeEncoder position | latch position | advanceAll position | resolvePov position =>
    exact ⟨fun _ => rfl, fun last => by rw [position] at last; cases last⟩

/-- The latch writes the two sample fields of a record only. -/
theorem latchAll_writes_samples {s : State} {i : Nat} {r r' : Slot} (here : s.slots[i]? = some r)
    (after : s.latchAll.slots[i]? = some r') :
    r' = { r with pinState := r'.pinState, pinPrevState := r'.pinPrevState } := by
  rw [latchAll_slots, here] at after
  split at after <;> cases after
  · cases s.sample[i]? <;> rfl
  · rfl

/-- Step 6 writes no sample field. -/
theorem runAdvanceAll_keeps_samples {s : State} {i : Nat} {r r' : Slot} (here : s.slots[i]? = some r)
    (after : (runAdvanceAll s).slots[i]? = some r') :
    r'.pinState = r.pinState ∧ r'.pinPrevState = r.pinPrevState := by
  rw [runAdvanceAll_slots, here] at after
  split at after <;> cases after
  · cases mode : s.modeAt i with
    | none => rw [advancedSlot_unloaded mode]; exact ⟨rfl, rfl⟩
    | some m => rw [advancedSlot_loaded mode]; exact (chainOf_advances (modeAt_format mode)).samples
  · exact ⟨rfl, rfl⟩

/-- Settles O53: each position of the sequencer against the whole table. -/
theorem everyFieldHasItsOneWriter : Obligations.EveryFieldHasItsOneWriter := by
  intro s t run
  cases step_writes run with
  | waits position => simp [position]
  | accepts position => simp [position]
  | latch position => simpa [position] using fun i r r' => latchAll_writes_samples (s := s)
  | advanceAll position => simpa [position] using fun i r r' => runAdvanceAll_keeps_samples (s := s)
  | scanMatrix position | appendShiftreg position | appendAxis position | appendDirect position
  | mergeEncoder position | resolvePov position | rebuildBitmap position => simp [position]

end Sys2Proof.Proofs

namespace Sys2Proof.Proofs

open Sys2Proof.Machine
open Sys2Proof.Safety

/-! ### The codes and the bitmap a cycle leaves are legal (R43, R65) -/

/-- R65: the table gives legal codes only. -/
theorem resolveMask_legal (m : Mask) : LegalCode (resolveMask m) := by
  unfold LegalCode; revert m; decide

/-- Step 7 writes the code of every hat. -/
theorem resolvedCodes_get (t : Hats Mask) (h : Hat) :
    Hats.get ⟨resolveMask t.h0, resolveMask t.h1, resolveMask t.h2, resolveMask t.h3⟩ h = resolveMask (t.get h) := by
  fin_cases h <;> rfl

theorem runRebuildBitmap_bit (s : State) (i : Nat) :
    (runRebuildBitmap s).outBitmap.bit i = (decide (i < s.slotCount) && outputOf s i) :=
  (runRebuildBitmap_packedBelow s).bits i

theorem runRebuildBitmap_ok {s : State} (count : s.slotCount ≤ s.params.N) :
    BitmapOk s.params (runRebuildBitmap s).outBitmap where
  canonical := (runRebuildBitmap_packedBelow s).canonical
  inRange := runRebuildBitmap_below s count
  padZero i pad := by rw [runRebuildBitmap_bit, decide_eq_false (by omega), Bool.false_and]

/-! ### Assigning samples keeps the bounds -/

theorem appendAll_cursor (vs : List Bool) {s : State} (cursor : s.k ≤ s.params.N) :
    (appendAll vs s).k ≤ s.params.N := by
  rw [appendAll_k vs cursor]
  exact Nat.min_le_left _ _

/-- With no column driven step 1 assigns the matrix samples and leaves none driven. -/
theorem runScanMatrix_fields {s : State} (undriven : s.columnDrive = none) :
    (runScanMatrix s).sample = (appendAll (matrixSamples s) s).sample ∧
    (runScanMatrix s).k = (appendAll (matrixSamples s) s).k ∧ (runScanMatrix s).columnDrive = none := by
  rw [runScanMatrix_eq s undriven]
  refine ⟨rfl, rfl, ?_⟩
  rw [appendAll_frame]
  exact undriven

/-! ### The invariant of the machine -/

section MachineInv

variable {s : State} (inv : MachineInv s)

include inv

/-- Steps 1 to 5 write samples, the cursor and the count, inside their bounds. -/
theorem machineInv_samples {sample : List Bool} {k slotCount : Nat} {p : SeqPos} (inner : s.seq ≠ .resolvePov)
    (busy : p ≠ .idle) (len : sample.length = s.params.N) (cursor : k ≤ s.params.N) (count : slotCount ≤ s.params.N) :
    MachineInv { s with
      sample := sample, k := k, slotCount := slotCount, columnDrive := none, pinIx := 0, seq := p } :=
  { inv with
    sampleLength := len
    cursor := cursor
    count := count
    noDrive := rfl
    pinWalkAtRest := rfl
    shownAtRest := fun rest => absurd rest busy
    codesFollow := fun _ => inv.codesFollow inner }

/-- Steps 2 to 4 assign samples; step 4 copies the cursor. -/
theorem machineInv_appendAll (vs : List Bool) {slotCount : Nat} {p : SeqPos} (inner : s.seq ≠ .resolvePov)
    (busy : p ≠ .idle) (count : slotCount ≤ s.params.N) :
    MachineInv { s with
      sample := (appendAll vs s).sample, k := (appendAll vs s).k, slotCount := slotCount
      columnDrive := none, pinIx := 0, seq := p } :=
  machineInv_samples inv inner busy ((appendAll_sample_length vs s).trans inv.sampleLength)
    (appendAll_cursor vs inv.cursor) count

theorem stepWrites_machineInv {t : State} (writes : StepWrites s t) : MachineInv t := by
  have drive := inv.noDrive
  have walk := inv.pinWalkAtRest
  cases writes with
  | waits => exact inv
  | accepts rest =>
    exact { inv with
      cursor := Nat.zero_le _
      shownAtRest := by nofun
      codesFollow := fun _ => inv.codesFollow (by rw [rest]; nofun) }
  | scanMatrix position =>
    obtain ⟨sample, k, undriven⟩ := runScanMatrix_fields drive
    rw [sample, k, undriven]
    exact machineInv_appendAll inv _ (by rw [position]; nofun) (by nofun) inv.count
  | appendShiftreg position =>
    have kept := machineInv_appendAll inv (registerSamples s) (p := .appendAxis) (by rw [position]; nofun) (by nofun)
      inv.count
    rwa [← drive, ← walk] at kept
  | appendAxis position =>
    have kept := machineInv_appendAll inv (axisSamples s) (p := .appendDirect) (by rw [position]; nofun) (by nofun)
      inv.count
    rwa [← drive, ← walk] at kept
  | appendDirect position =>
    have kept := machineInv_appendAll inv (directSamples s) (p := .mergeEncoder) (by rw [position]; nofun) (by nofun)
      (appendAll_cursor (directSamples s) inv.cursor)
    rwa [← drive] at kept
  | mergeEncoder position =>
    have kept := machineInv_samples inv (p := .latch) (by rw [position]; nofun) (by nofun)
      ((runMergeEncoder_length s).trans inv.sampleLength) inv.cursor inv.count
    rwa [← drive, ← walk] at kept
  | latch position =>
    exact { inv with
      slotsLength := (latchAll_length s).trans inv.slotsLength
      shownAtRest := by nofun
      codesFollow := fun _ => inv.codesFollow (by rw [position]; nofun) }
  | advanceAll =>
    exact { inv with
      slotsLength := (runAdvanceAll_slots_length s).trans inv.slotsLength
      slotWalkAtRest := rfl
      shownAtRest := by nofun
      codesFollow := fun inner => absurd rfl inner }
  | resolvePov =>
    exact { inv with
      hatWalkAtRest := rfl
      codes := fun h => (resolvedCodes_get s.povMask h).symm ▸ resolveMask_legal _
      shownAtRest := by nofun
      codesFollow := fun _ => resolvedCodes_get s.povMask }
  | rebuildBitmap position =>
    have packed := runRebuildBitmap_ok inv.count
    exact { inv with
      bitmapOk := packed
      shownOk := packed
      shownCodes := inv.codes
      shownAtRest := fun _ => ⟨rfl, rfl⟩
      codesFollow := fun _ => inv.codesFollow (by rw [position]; nofun) }

end MachineInv

/-- Settles O46: position by position, the fields that are written against the invariant's clauses about them. -/
theorem stepKeepsTheMachineInvariant : Obligations.StepKeepsTheMachineInvariant :=
  fun _ _ inv run => stepWrites_machineInv inv (step_writes run)

end Sys2Proof.Proofs

namespace Sys2Proof.Proofs

open Sys2Proof.Machine
open Sys2Proof.Safety

/-! ### How many samples each step assigns (R28) -/

theorem matrixSamples_length (s : State) : (matrixSamples s).length = s.pinCount .column * s.pinCount .row := by
  simp [matrixSamples, List.length_flatMap]

theorem registerSamples_length (s : State) : (registerSamples s).length = s.cfg.srCount := by
  simp [registerSamples]

theorem axisSamples_length (s : State) : (axisSamples s).length = s.cfg.axisCount := by
  simp [axisSamples]

/-- The direct buttons of a list of pins are those of one kind and those of the other. -/
theorem directSamples_length (s : State) :
    (directSamples s).length = s.pinCount .btnGnd + s.pinCount .btnVcc := by
  unfold directSamples State.pinCount State.pinsBelow
  induction List.range s.params.P with
  | nil => rfl
  | cons p pins ih =>
    rw [List.filterMap_cons, List.filter_cons, List.filter_cons]
    by_cases ground : s.roleAt p = .btnGnd
    · have noSupply : s.roleAt p ≠ .btnVcc := by rw [ground]; decide
      simp [ground, ih]; omega
    · by_cases supply : s.roleAt p = .btnVcc
      · simp [supply, ih]; omega
      · simp [ground, supply, ih]

/-- Assigning samples moves a cursor that stands at the truncated number of those before. -/
theorem appendAll_k_min (vs : List Bool) {s : State} {n : Nat} (k : s.k = min s.params.N n) :
    (appendAll vs s).k = min s.params.N (n + vs.length) := by
  rw [appendAll_k vs (by omega)]
  omega

theorem cursor_scanMatrix {s : State} (undriven : s.columnDrive = none) (k : s.k = 0) :
    (runScanMatrix s).k = min s.params.N (s.pinCount .column * s.pinCount .row) := by
  rw [(runScanMatrix_fields undriven).2.1, appendAll_k_min (n := 0) _ (by omega), matrixSamples_length, Nat.zero_add]

theorem cursor_appendShiftreg {s : State} (k : s.k = min s.params.N (s.pinCount .column * s.pinCount .row)) :
    (appendAll (registerSamples s) s).k =
      min s.params.N (s.pinCount .column * s.pinCount .row + s.cfg.srCount) := by
  rw [appendAll_k_min _ k, registerSamples_length]

theorem cursor_appendAxis {s : State}
    (k : s.k = min s.params.N (s.pinCount .column * s.pinCount .row + s.cfg.srCount)) :
    (appendAll (axisSamples s) s).k =
      min s.params.N (s.pinCount .column * s.pinCount .row + s.cfg.srCount + s.cfg.axisCount) := by
  rw [appendAll_k_min _ k, axisSamples_length]

theorem cursor_appendDirect {s : State} (k : s.k = min s.params.N
      (s.pinCount .column * s.pinCount .row + s.cfg.srCount + s.cfg.axisCount)) :
    (appendAll (directSamples s) s).k = assignedCount s := by
  rw [appendAll_k_min _ k, directSamples_length, assignedCount]

/-! ### The invariant of the slot assignment -/

theorem stepWrites_assignInv {s t : State} (machine : MachineInv s) (inv : AssignInv s) (writes : StepWrites s t) :
    AssignInv t := by
  have cursor := inv.cursorOk
  cases writes with
  | waits => exact inv
  | accepts => exact { inv with cursorOk := rfl }
  | scanMatrix position =>
    simp only [CursorOk, position] at cursor
    exact { inv with cursorOk := cursor_scanMatrix machine.noDrive cursor }
  | appendShiftreg position =>
    simp only [CursorOk, position] at cursor
    exact { inv with cursorOk := cursor_appendShiftreg cursor }
  | appendAxis position =>
    simp only [CursorOk, position] at cursor
    exact { inv with cursorOk := cursor_appendAxis cursor }
  | appendDirect position =>
    simp only [CursorOk, position] at cursor
    exact { inv with cursorOk := cursor_appendDirect cursor, count := .inr (cursor_appendDirect cursor) }
  | mergeEncoder position =>
    simp only [CursorOk, position] at cursor
    exact { inv with cursorOk := cursor }
  | latch position =>
    simp only [CursorOk, position] at cursor
    refine { inv with cursorOk := cursor, untouched := fun i r unassigned here => ?_ }
    rw [latchAll_slots, if_neg (by rw [cursor]; exact Nat.not_lt.mpr unassigned)] at here
    exact inv.untouched i r unassigned here
  | advanceAll position =>
    simp only [CursorOk, position] at cursor
    refine { inv with cursorOk := cursor, untouched := fun i r unassigned here => ?_ }
    rw [runAdvanceAll_slots, if_neg (by rw [cursor]; exact Nat.not_lt.mpr unassigned)] at here
    exact inv.untouched i r unassigned here
  | resolvePov position =>
    simp only [CursorOk, position] at cursor
    exact { inv with cursorOk := cursor }
  | rebuildBitmap => exact { inv with cursorOk := trivial }

/-- Settles O48: each step moves the cursor by the samples it assigns, and no step touches an unassigned slot. -/
theorem stepKeepsTheAssignmentInvariant : Obligations.StepKeepsTheAssignmentInvariant :=
  fun _ _ machine inv run => stepWrites_assignInv machine inv (step_writes run)

end Sys2Proof.Proofs

namespace Sys2Proof.Proofs

open Sys2Proof.Machine
open Sys2Proof.Safety

/-! ### What a mode keeps of its record (R32, R112) -/

section Legal

variable {m : Instr} {o : Overflow} {c : Configuration} {now : U32} {r r' : Slot}

/-- R32 asks nothing of a switch mode. -/
theorem slotLegal_of_switchMode (mode : SwitchMode m) : SlotLegal o m r := by
  obtain rfl | rfl | rfl := mode <;> simp [SlotLegal, povOwner]

/-- The low bit of a wrapping counter flips with every press. -/
theorem addPress_wrap_low (n : U32) : (addPress .wrap n true).getLsbD 0 = !(n.getLsbD 0) := by
  simp only [addPress, BitVec.getLsbD, Nat.testBit_zero, BitVec.toNat_add, show (1 : U32).toNat = 1 from rfl]
  rw [← decide_not, decide_eq_decide]
  omega

/-- The commit of every mode keeps R32. -/
theorem commit_slotLegal (edge : Qualifies m r) (legal : SlotLegal o m r) :
    SlotLegal o m { commitOf m o r with pending := false } := by
  obtain ⟨-, -, parity, pov, -⟩ := legal
  refine ⟨?_, nofun, ?_, fun owned => ?_, ?_⟩
  · rintro (rfl | rfl) <;> rfl
  · rintro rfl rfl
    calc (!r.currentState)
      _ = !(r.pressCount.getLsbD 0) := by rw [parity rfl rfl]
      _ = (addPress .wrap r.pressCount true).getLsbD 0 := (addPress_wrap_low _).symm
  · obtain ⟨x, owns⟩ := Option.isSome_iff_exists.mp owned
    rw [commitOf_pov (h := x.1) (d := x.2) owns]
    exact pov owned
  · rintro ⟨b, rfl⟩
    exact edge.elim

theorem Advances.slotLegal (h : Advances m o c now r r') (legal : SlotLegal o m r) : SlotLegal o m r' := by
  cases h with
  | opens _ edge =>
    obtain ⟨same, -, parity, pov, -⟩ := legal
    refine ⟨same, ?_, parity, pov, ?_⟩
    · rintro rfl -; exact edge.2
    · rintro ⟨b, rfl⟩; exact edge.elim
  | commits _ edge => exact commit_slotLegal edge legal
  | releases toggle =>
    subst toggle
    obtain ⟨-, -, parity, -, -⟩ := legal
    exact ⟨by simp, nofun, parity, by simp [povOwner], by simp⟩
  | autoReleases switch => exact slotLegal_of_switchMode switch
  | aborts =>
    obtain ⟨same, -, parity, pov, reserved⟩ := legal
    refine ⟨same, nofun, parity, pov, fun isReserved => ?_⟩
    obtain ⟨prev, output, -, last, count⟩ := reserved isReserved
    exact ⟨prev, output, rfl, last, count⟩
  | rests => exact legal

/-- R32 reads no sample field. -/
theorem slotLegal_takeSample (sample : Option Bool) (legal : SlotLegal o m r) :
    SlotLegal o m (takeSample sample r) := by
  cases sample <;> exact legal

theorem takeSample_prevState (sample : Option Bool) : (takeSample sample r).prevState = r.prevState := by
  cases sample <;> rfl

/-- The commit of a POV mode moves its record's committed level, and no other arm does (R140). -/
theorem chainPov_prevState :
    (chainPov o c now r).prevState = if PovCommits c now r then r.pinState else r.prevState := by
  unfold chainPov
  by_cases commits : PovCommits c now r
  · rw [if_neg (by simp [commits.1]), if_pos commits, if_pos commits]
  · rw [if_neg commits, if_neg commits]
    split_ifs <;> rfl

end Legal

/-! ### The owned bit of a mask (R32 (c), R144) -/

/-- A mask commit sets the bit of its direction to the level. -/
theorem maskCommitted_bit_own (t : Hats Mask) (h : Hat) (d : Nat) (level : Bool) :
    (maskCommitted t h d level).get h &&& weight d = if level = true then weight d else 0 := by
  have bit (m w : Mask) : (if level = true then m ||| w else m &&& ~~~w) &&& w = if level = true then w else 0 := by
    revert m w level; decide
  rw [maskCommitted, Hats.get_set_same]
  exact bit _ _

/-- A mask commit leaves the bit of every other direction and hat. -/
theorem maskCommitted_bit_other (t : Hats Mask) {g h : Hat} {d e : Nat} (dirD : d < 4) (dirE : e < 4)
    (ne : (g, e) ≠ (h, d)) (level : Bool) :
    (maskCommitted t g e level).get h &&& weight d = t.get h &&& weight d := by
  by_cases hat : h = g
  · subst hat
    have bit : ∀ (d e : Fin 4) (m : Mask), e ≠ d →
        (if level = true then m ||| weight e.val else m &&& ~~~(weight e.val)) &&& weight d.val =
          m &&& weight d.val := by
      revert level; decide
    rw [maskCommitted, Hats.get_set_same]
    exact bit ⟨d, dirD⟩ ⟨e, dirE⟩ _ fun same => ne (by rw [Fin.mk.inj same])
  · rw [maskCommitted_get_other t hat]

/-- A slot that does not own a bit leaves it. -/
theorem maskCommitWith_bit_other {s : State} {i : Nat} {h : Hat} {d : Nat} (dir : d < 4) (notOwner : ¬ Owns s i h d)
    (t : Hats Mask) (r : Slot) : (maskCommitWith s t i r).get h &&& weight d = t.get h &&& weight d := by
  cases loaded : s.modeAt i with
  | none => rw [maskCommitWith_unloaded loaded]
  | some m =>
    rw [maskCommitWith_loaded loaded, masksAfterMode]
    cases owner : povOwner m with
    | none => rfl
    | some x =>
      have ne : (x.1, x.2) ≠ (h, d) := fun same =>
        notOwner (by rw [Owns, loaded]; exact owner.trans (congrArg some same))
      dsimp only
      split
      · exact maskCommitted_bit_other t dir (povOwner_direction_lt (h := x.1) owner) ne _
      · rfl

/-- A POV slot's bit follows its committed level. -/
theorem maskCommitWith_bit_own {s : State} {i : Nat} {h : Hat} {d : Nat} (owns : Owns s i h d) (t : Hats Mask)
    {r : Slot} (follows : t.get h &&& weight d = if r.prevState = true then weight d else 0) :
    (maskCommitWith s t i r).get h &&& weight d =
      if (advancedSlot s i r).prevState = true then weight d else 0 := by
  obtain ⟨m, loaded, owner⟩ := Option.bind_eq_some_iff.mp owns
  rw [maskCommitWith_loaded loaded, advancedSlot_loaded loaded, chainOf_pov owner, chainPov_prevState, masksAfterMode,
    owner]
  dsimp only
  split
  · exact maskCommitted_bit_own t h d _
  · exact follows

theorem owns_direction_lt {s : State} {i : Nat} {h : Hat} {d : Nat} (owns : Owns s i h d) : d < 4 := by
  obtain ⟨m, -, owner⟩ := Option.bind_eq_some_iff.mp owns
  exact povOwner_direction_lt owner

/-! ### The invariant of the modes -/

section ModeInv

variable {s : State} (inv : ModeInv s)

include inv

/-- One advance keeps the invariant. -/
theorem advance_modeInv (i : Nat) : ModeInv (advance i s) := by
  cases slot : s.slots[i]? with
  | none => rw [advance_nowhere slot]; exact { inv with }
  | some r =>
    obtain ⟨inRange, -⟩ := List.getElem?_eq_some_iff.mp slot
    rw [advance_here slot]
    refine { inv with legal := fun j m r' loaded after => ?_, soleOwner := fun j r' h d after owns sole => ?_,
                      unowned := fun h d dir none => ?_ }
    · change (s.slots.set i _)[j]? = some r' at after
      change s.modeAt j = some m at loaded
      by_cases e : j = i
      · subst e
        rw [List.getElem?_set_self inRange, advancedSlot_loaded loaded] at after
        cases after
        exact (chainOf_advances (modeAt_format loaded)).slotLegal (inv.legal j m r loaded slot)
      · rw [List.getElem?_set_ne (Ne.symm e)] at after
        exact inv.legal j m r' loaded after
    · change (s.slots.set i _)[j]? = some r' at after
      by_cases e : j = i
      · subst e
        rw [List.getElem?_set_self inRange] at after
        cases after
        exact maskCommitWith_bit_own owns _ (inv.soleOwner j r h d slot owns sole)
      · rw [List.getElem?_set_ne (Ne.symm e)] at after
        have notOwner : ¬ Owns s i h d := fun other => e (sole i other).symm
        exact (maskCommitWith_bit_other (owns_direction_lt owns) notOwner _ r).trans
          (inv.soleOwner j r' h d after owns sole)
    · exact (maskCommitWith_bit_other dir (none i) _ r).trans (inv.unowned h d dir none)

theorem runAdvanceAll_modeInv : ModeInv (runAdvanceAll s) :=
  { runOver_keeps (P := ModeInv) (fun i _ kept => advance_modeInv kept i) (List.range s.slotCount) inv with }

theorem latchAll_modeInv : ModeInv s.latchAll := by
  have origin {i : Nat} {r' : Slot} (after : s.latchAll.slots[i]? = some r') :
      ∃ r sample, s.slots[i]? = some r ∧ r' = takeSample sample r := by
    rw [latchAll_slots] at after
    split at after
    · obtain ⟨r, here, rfl⟩ := Option.map_eq_some_iff.mp after
      exact ⟨r, _, here, rfl⟩
    · exact ⟨r', none, after, rfl⟩
  rw [latchAll_frame]
  refine { inv with legal := fun i m r' loaded after => ?_, soleOwner := fun i r' h d after owns sole => ?_ }
  · obtain ⟨r, sample, here, rfl⟩ := origin after
    exact slotLegal_takeSample sample (inv.legal i m r loaded here)
  · obtain ⟨r, sample, here, rfl⟩ := origin after
    rw [takeSample_prevState]
    exact inv.soleOwner i r h d here owns sole

/-- The output of a POV slot and of a reserved mode is 0 (R143, R240). -/
theorem outputOf_quiet {i : Nat} {m : Instr} (loaded : s.modeAt i = some m)
    (quiet : (povOwner m).isSome = true ∨ ∃ b, m = .modeReserved b) : outputOf s i = false := by
  unfold outputOf
  cases slot : s.slots[i]? with
  | none => rfl
  | some r =>
    obtain ⟨-, -, -, pov, reserved⟩ := inv.legal i m r loaded slot
    exact quiet.elim pov fun isReserved => (reserved isReserved).2.1

theorem stepWrites_modeInv {t : State} (writes : StepWrites s t) : ModeInv t := by
  cases writes with
  | waits | accepts | scanMatrix | appendShiftreg | appendAxis | appendDirect | mergeEncoder | resolvePov =>
    exact { inv with }
  | latch =>
    have latched := latchAll_modeInv inv
    rw [latchAll_frame] at latched
    exact { latched with }
  | advanceAll =>
    have advanced := runAdvanceAll_modeInv inv
    rw [runAdvanceAll_frame] at advanced
    exact { advanced with }
  | rebuildBitmap =>
    refine { inv with quietBits := fun i m loaded quiet => ?_ }
    have bit : (runRebuildBitmap s).outBitmap.bit i = false := by
      rw [runRebuildBitmap_bit, outputOf_quiet inv loaded quiet, Bool.and_false]
    exact ⟨bit, bit⟩

end ModeInv

/-- Settles O47: advance by advance in step 6; the latch writes no field the invariant reads, and step 8 packs only
outputs it bounds. -/
theorem stepKeepsTheModeInvariant : Obligations.StepKeepsTheModeInvariant :=
  fun _ _ _ inv run => stepWrites_modeInv inv (step_writes run)

/-! ### Reset (R31, R220) -/

section Reset

variable {p : Params} {c : Configuration} {requests : List CycleInput}

theorem resetOf_slot {i : Nat} {r : Slot} (here : (State.resetOf p c requests).slots[i]? = some r) : r = Slot.reset :=
  List.eq_of_mem_replicate (List.mem_of_getElem? here)

theorem resetOf_povMask (h : Hat) : (State.resetOf p c requests).povMask.get h = 0 := by fin_cases h <;> rfl

theorem resetOf_povCode (h : Hat) : (State.resetOf p c requests).povCode.get h = 0xFF := by fin_cases h <;> rfl

theorem resetOf_shownCode (h : Hat) : (State.resetOf p c requests).shownCode.get h = 0xFF := by fin_cases h <;> rfl

theorem bitmapOk_nil (p : Params) : BitmapOk p [] where
  canonical := rfl
  inRange := rfl
  padZero i _ := Memory.bit_nil i

theorem resetOf_machineInv (params : p.wf = true) (cfg : c.wf p = true) : MachineInv (State.resetOf p c requests) where
  paramsOk := params
  configOk := cfg
  slotsLength := List.length_replicate
  sampleLength := List.length_replicate
  cursor := Nat.zero_le _
  count := Nat.zero_le _
  noDrive := rfl
  slotWalkAtRest := rfl
  pinWalkAtRest := rfl
  hatWalkAtRest := rfl
  bitmapOk := bitmapOk_nil p
  shownOk := bitmapOk_nil p
  codes h := .inr (resetOf_povCode h)
  shownCodes h := .inr (resetOf_shownCode h)
  shownAtRest _ := ⟨rfl, rfl⟩
  codesFollow _ h := by rw [resetOf_povCode, resetOf_povMask]; rfl

theorem slotLegal_reset (o : Overflow) (m : Instr) : SlotLegal o m Slot.reset :=
  ⟨fun _ => rfl, fun _ _ => rfl, fun _ _ => rfl, fun _ => rfl, fun _ => ⟨rfl, rfl, rfl, rfl, rfl⟩⟩

theorem resetOf_modeInv : ModeInv (State.resetOf p c requests) where
  legal i m r _ here := by rw [resetOf_slot here]; exact slotLegal_reset _ m
  soleOwner i r h d here _ _ := by
    rw [resetOf_slot here, resetOf_povMask]
    exact BitVec.zero_and
  unowned h d _ _ := by rw [resetOf_povMask]; exact BitVec.zero_and
  quietBits i _ _ _ := ⟨Memory.bit_nil i, Memory.bit_nil i⟩

theorem resetOf_assignInv : AssignInv (State.resetOf p c requests) where
  cursorOk := trivial
  count := .inl rfl
  untouched _ _ _ := resetOf_slot

end Reset

/-- Settles O49: for any legal parameters and configuration, of which those of log 2 and log 3 are one choice. -/
theorem resetMeetsTheInvariants : Obligations.ResetMeetsTheInvariants :=
  ⟨fun _ _ _ params cfg => ⟨resetOf_machineInv params cfg, resetOf_modeInv, resetOf_assignInv⟩,
    resetOf_machineInv rfl (by simp [Configuration.wf, Configuration.atReset, Params.atReset]), resetOf_modeInv,
    resetOf_assignInv⟩

/-- Settles O50: field by field. -/
theorem resetLeavesTheSpecValues : Obligations.ResetLeavesTheSpecValues := by
  rintro p c requests s rfl
  refine ⟨List.length_replicate, fun i r here => ?_,
    fun h => ⟨resetOf_povMask h, resetOf_povCode h, resetOf_shownCode h⟩, fun j => ⟨rfl, rfl⟩,
    rfl, rfl, rfl, rfl, rfl, ?_⟩
  · rw [resetOf_slot here]
    exact ⟨rfl, rfl, rfl, rfl, rfl, rfl, rfl⟩
  · rintro u rfl rfl rfl
    exact State.powerOn_eq u

end Sys2Proof.Proofs

namespace Sys2Proof.Proofs

open Sys2Proof.Machine
open Sys2Proof.Safety

/-! ### The closed form of a cycle, read as walks -/

theorem assignedSamples_eq (c : State) : assignedSamples c =
    (matrixSamples c ++ registerSamples c ++ axisSamples c ++ directSamples c).take c.params.N := rfl

theorem allSamples_length (c : State) :
    (matrixSamples c ++ registerSamples c ++ axisSamples c ++ directSamples c).length =
      c.pinCount .column * c.pinCount .row + c.cfg.srCount + c.cfg.axisCount +
        (c.pinCount .btnGnd + c.pinCount .btnVcc) := by
  simp only [List.length_append, matrixSamples_length, registerSamples_length, axisSamples_length,
    directSamples_length]

theorem assignedSamples_length (c : State) : (assignedSamples c).length = assignedCount c := by
  rw [assignedSamples_eq, List.length_take, allSamples_length, assignedCount]

/-- The latched sample is the assigned one with the encoder's merged (R169). -/
theorem latchedSample_eq (c : State) (i : Nat) :
    latchedSample c i = ((assignedSamples c)[i]?).map (mergedSample c i) := by
  unfold latchedSample
  cases (assignedSamples c)[i]? with
  | none => rfl
  | some v => cases value : c.encAt i <;> simp [mergedSample, value]

theorem latched_eq (c : State) (i : Nat) : latched c i = takeSample (latchedSample c i) := by
  funext r
  unfold latched takeSample takeLevel
  cases latchedSample c i <;> rfl

theorem latched_unassigned {c : State} {i : Nat} (unassigned : assignedCount c ≤ i) : latched c i = id := by
  have noSample : (assignedSamples c)[i]? = none := by
    rw [List.getElem?_eq_none_iff, assignedSamples_length]; exact unassigned
  rw [latched_eq, latchedSample_eq, noSample]
  rfl

theorem slotAfter_eq (c : State) (i : Nat) (r : Slot) :
    slotAfter c i r = if i < assignedCount c then advancedSlot c i (latched c i r) else r := by
  unfold slotAfter advancedSlot
  cases c.modeAt i <;> rfl

/-! ### A request and steps 1 to 4: the samples are gathered -/

theorem appendAll_at (vs : List Bool) (p : SeqPos) (s : State) :
    appendAll vs { s with seq := p } = { appendAll vs s with seq := p } := by
  induction vs generalizing s with
  | nil => rfl
  | cons v vs ih =>
    have one : ({ s with seq := p } : State).appendSample v = { s.appendSample v with seq := p } := by
      unfold State.appendSample; dsimp only; split <;> rfl
    simp only [appendAll]
    rw [one, ih]

/-- The cycle of `c` at position `p` once the samples `vs` are assigned from `k` = 0 on. -/
def gathered (c : State) (vs : List Bool) (p : SeqPos) : State :=
  { c with
    sample := (appendAll vs { c with k := 0 }).sample
    k := (appendAll vs { c with k := 0 }).k
    seq := p }

theorem gathered_eq (c : State) (vs : List Bool) (p : SeqPos) :
    gathered c vs p = { appendAll vs { c with k := 0 } with seq := p } := by
  rw [appendAll_frame]; rfl

theorem appendAll_gathered (c : State) (us vs : List Bool) (p : SeqPos) :
    appendAll vs (gathered c us p) = gathered c (us ++ vs) p := by
  rw [gathered_eq, gathered_eq, appendAll_at, appendAll_append]

section Gather

variable {c : State} {vs : List Bool}

theorem step_gathered_scanMatrix (undriven : c.columnDrive = none) (walk : c.pinIx = 0) :
    step (gathered c [] .scanMatrix) = .next (gathered c (matrixSamples c) .appendShiftreg) := by
  rw [step_scanMatrix rfl, runScanMatrix_eq (gathered c [] .scanMatrix) undriven, appendAll_gathered, ← walk]
  rfl

theorem step_gathered_appendShiftreg :
    step (gathered c vs .appendShiftreg) = .next (gathered c (vs ++ registerSamples c) .appendAxis) := by
  rw [step_appendShiftreg rfl, runAppendShiftreg_eq, appendAll_gathered]
  rfl

theorem step_gathered_appendAxis :
    step (gathered c vs .appendAxis) = .next (gathered c (vs ++ axisSamples c) .appendDirect) := by
  rw [step_appendAxis rfl, runAppendAxis_eq, appendAll_gathered]
  rfl

theorem step_gathered_appendDirect (walk : c.pinIx = 0) :
    step (gathered c vs .appendDirect) = .next { gathered c (vs ++ directSamples c) .mergeEncoder with
      slotCount := (gathered c (vs ++ directSamples c) .mergeEncoder).k } := by
  rw [step_appendDirect rfl, runAppendDirect_eq, appendAll_gathered, ← walk]
  rfl

end Gather

/-- The cycle of `c` before step 5: the samples of R170 stand in the staging array and are counted. -/
structure Gathered (c u : State) : Prop where
  frame : u = { c with sample := u.sample, k := u.k, slotCount := assignedCount c, seq := .mergeEncoder }
  sampled : ∀ j, j < assignedCount c → u.sample[j]? = (assignedSamples c)[j]?

theorem gathered_all {c : State} (len : c.sample.length = c.params.N) {vs : List Bool}
    (all : vs = matrixSamples c ++ registerSamples c ++ axisSamples c ++ directSamples c) :
    Gathered c { gathered c vs .mergeEncoder with slotCount := (gathered c vs .mergeEncoder).k } := by
  have count : (appendAll vs { c with k := 0 }).k = assignedCount c := by
    rw [appendAll_k _ (Nat.zero_le _), all, allSamples_length, Nat.zero_add, assignedCount]
  refine ⟨by rw [← count]; rfl, fun j lt => ?_⟩
  rw [← assignedSamples_length, assignedSamples_eq, ← all, List.length_take] at lt
  have inRange : j < c.params.N ∧ j < vs.length := by omega
  rw [assignedSamples_eq, ← all, List.getElem?_take_of_lt inRange.1]
  exact (appendAll_sample vs (s := { c with k := 0 }) len j).trans (if_pos ⟨Nat.zero_le j, inRange⟩)

/-- Two runs in a row. -/
theorem run_add (M : Host.Core) {m : Nat} {s t : M.State} (h : M.run m s = .next t) (n : Nat) :
    M.run (m + n) s = M.run n t := by
  induction m generalizing s with
  | zero =>
    rw [Nat.zero_add]
    exact congrArg (M.run n) (Host.Outcome.next.inj h)
  | succ m ih =>
    rw [Nat.succ_add]
    simp only [Host.Core.run] at h ⊢
    split at h
    · exact ih h
    · cases h
    · cases h

/-- One more step of a run of the machine. -/
theorem run_step {s t : State} (n : Nat) (h : step s = .next t) :
    Sys2Proof.core.run (n + 1) s = Sys2Proof.core.run n t := run_succ Sys2Proof.core n h

theorem run_gathered {s : State} (inv : MachineInv s) (rest : s.seq = .idle) {x : CycleInput}
    {later : List CycleInput} (schedule : s.stimulus = x :: later) {c : State}
    (cycle : c = { s with stimulus := later, inp := x, cycles := s.cycles + 1 }) :
    ∃ u, Sys2Proof.core.run 5 s = .next u ∧ Gathered c u := by
  have undriven : c.columnDrive = none := by rw [cycle]; exact inv.noDrive
  have walk : c.pinIx = 0 := by rw [cycle]; exact inv.pinWalkAtRest
  have len : c.sample.length = c.params.N := by rw [cycle]; exact inv.sampleLength
  have request : step s = .next (gathered c [] .scanMatrix) := by
    rw [step_idle rest, restStep_cons rest schedule, cycle]; rfl
  refine ⟨_, ?_, gathered_all len rfl⟩
  rw [run_step 4 request, run_step 3 (step_gathered_scanMatrix undriven walk),
    run_step 2 step_gathered_appendShiftreg, run_step 1 step_gathered_appendAxis,
    run_step 0 (step_gathered_appendDirect walk)]
  rfl

/-! ### Step 5 and the latch -/

/-- The cycle of `c` before step 6: every assigned slot holds its new sample. -/
structure Sampled (c v : State) : Prop where
  frame : v = { c with
    sample := v.sample, k := v.k, slots := v.slots, slotCount := assignedCount c, seq := .advanceAll }
  slots : v.slots = c.slots.mapIdx (latched c)

/-- The samples of step 5 are those the closed form latches. -/
theorem Gathered.merged {c u : State} (h : Gathered c u) {j : Nat} (lt : j < assignedCount c) :
    (runMergeEncoder u).sample[j]? = latchedSample c j := by
  have count : u.slotCount = assignedCount c := by rw [h.frame]
  have inp : u.inp = c.inp := by rw [h.frame]
  rw [runMergeEncoder_sample, if_pos (by rw [count]; exact lt), h.sampled j lt, latchedSample_eq,
    mergedSample_congr inp]

theorem run_sampled {c u : State} (h : Gathered c u) : ∃ v, Sys2Proof.core.run 2 u = .next v ∧ Sampled c v := by
  have position : u.seq = .mergeEncoder := by rw [h.frame]
  have slots : u.slots = c.slots := by rw [h.frame]
  have count : u.slotCount = assignedCount c := by rw [h.frame]
  refine ⟨_, by rw [run_step 1 (step_mergeEncoder_writes position), run_step 0 (step_latch_writes rfl)]; rfl,
    ?_, ?_⟩
  · rw [h.frame]
  · refine List.ext_getElem? fun j => ?_
    rw [List.getElem?_mapIdx]
    refine (latchAll_slots _ j).trans ?_
    change (if j < u.slotCount then (u.slots[j]?).map (takeSample (runMergeEncoder u).sample[j]?) else u.slots[j]?) = _
    rw [count, slots]
    split
    · next lt => rw [h.merged lt, latched_eq]
    · next ge => rw [latched_unassigned (by omega), Option.map_id_fun, id]

end Sys2Proof.Proofs

namespace Sys2Proof.Proofs

open Sys2Proof.Machine
open Sys2Proof.Safety

/-! ### Steps 6 to 8 -/

/-- The cycle of `c` when it is over, in closed form. -/
structure CycleDone (c t : State) : Prop where
  frame : t = { c with
    sample := t.sample, k := t.k, slots := t.slots, povMask := t.povMask, povCode := t.povCode
    outBitmap := t.outBitmap, slotCount := assignedCount c, shownBitmap := t.outBitmap, shownCode := t.povCode
    slotIx := 0, hatIx := 0, seq := .idle }
  slots : t.slots = c.slots.mapIdx (slotAfter c)
  masks : t.povMask = masksAfter c
  codes : ∀ h, t.povCode.get h = resolveMask (t.povMask.get h)
  bits : ∀ i, t.outBitmap.bit i = (decide (i < assignedCount c) && outputOf t i)

theorem Sampled.sameReads {c v : State} (h : Sampled c v) : SameReads c v := by
  rw [h.frame]
  exact ⟨rfl, rfl, rfl⟩

/-- Step 6 on the latched records is the closed form of every slot (R172). -/
theorem Sampled.advanced_slots {c v : State} (h : Sampled c v) :
    (runAdvanceAll v).slots = c.slots.mapIdx (slotAfter c) := by
  have count : v.slotCount = assignedCount c := by rw [h.frame]
  refine List.ext_getElem? fun j => ?_
  rw [runAdvanceAll_slots, h.slots, List.getElem?_mapIdx, List.getElem?_mapIdx, count, h.sameReads.advancedSlot]
  cases c.slots[j]? with
  | none => simp
  | some r =>
    simp only [Option.map_some, slotAfter_eq]
    split
    · rfl
    · next ge => rw [latched_unassigned (by omega)]; rfl

/-- Step 6 makes the commits of the closed form, in slot order (R144). -/
theorem Sampled.advanced_masks {c v : State} (h : Sampled c v) : (runAdvanceAll v).povMask = masksAfter c := by
  have count : v.slotCount = assignedCount c := by rw [h.frame]
  have masks : v.povMask = c.povMask := by rw [h.frame]
  have commit : maskCommitAt v = maskAfterSlot c := by
    funext t i
    unfold maskCommitAt maskAfterSlot
    rw [h.slots, List.getElem?_mapIdx, h.sameReads.maskCommitWith]
    cases c.slots[i]? <;> rfl
  rw [runAdvanceAll_povMask, count, masks, commit, masksAfter]

theorem run_cycleDone {c v : State} (h : Sampled c v) : ∃ t, Sys2Proof.core.run 3 v = .next t ∧ CycleDone c t := by
  have position : v.seq = .advanceAll := by rw [h.frame]
  refine ⟨_, by rw [run_step 2 (step_advanceAll_writes position), run_step 1 (step_resolvePov_writes rfl),
    run_step 0 (step_rebuildBitmap_writes rfl)]; rfl, ?_, ?_, ?_, ?_, fun i => ?_⟩
  · rw [h.frame]
  · exact h.advanced_slots
  · exact h.advanced_masks
  · exact resolvedCodes_get _
  · have count : v.slotCount = assignedCount c := by rw [h.frame]
    rw [runRebuildBitmap_bit]
    change (decide (i < v.slotCount) && _) = _
    rw [count]
    rfl

/-! ### The whole cycle (R161, R181) -/

theorem run_cycle {s : State} (inv : MachineInv s) (rest : s.seq = .idle) {x : CycleInput}
    {later : List CycleInput} (schedule : s.stimulus = x :: later) {c : State}
    (cycle : c = { s with stimulus := later, inp := x, cycles := s.cycles + 1 }) :
    ∃ t, Sys2Proof.core.run 10 s = .next t ∧ CycleDone c t := by
  obtain ⟨u, run5, gathered⟩ := run_gathered inv rest schedule cycle
  obtain ⟨v, run2, sampled⟩ := run_sampled gathered
  obtain ⟨t, run3, done⟩ := run_cycleDone sampled
  exact ⟨t, by rw [run_add Sys2Proof.core run5 5, run_add Sys2Proof.core run2 3, run3], done⟩

section Done

variable {c t : State} (done : CycleDone c t)

include done

theorem CycleDone.slot {i : Nat} {r : Slot} (here : c.slots[i]? = some r) : t.slots[i]? = some (slotAfter c i r) := by
  rw [done.slots, List.getElem?_mapIdx, here]
  rfl

theorem CycleDone.bitmapShows : BitmapShows t (assignedCount c) := by
  intro i r here
  rw [done.bits, outputOf, here]
  rfl

end Done

/-- Settles O54: gathering, latching and advancing, five, two and three steps. -/
theorem tenStepsRunOneScanCycle : Obligations.TenStepsRunOneScanCycle := by
  rintro s x later c inv rest schedule cycle
  obtain ⟨t, run, done⟩ := run_cycle inv rest schedule cycle
  have slots : c.slots = s.slots := by rw [cycle]
  have cfg : c.cfg = s.cfg := by rw [cycle]
  have params : c.params = s.params := by rw [cycle]
  have stimulus : c.stimulus = later := by rw [cycle]
  refine ⟨t, run, by rw [done.frame], by rw [done.frame, ← stimulus], by rw [done.frame], assignedSamples_length c, ?_,
    fun i r here => done.slot (slots ▸ here), done.masks, done.codes, done.bitmapShows, by rw [done.frame],
    by rw [done.frame], by rw [done.frame, ← cfg], by rw [done.frame, ← params]⟩
  rw [done.slots, List.length_mapIdx, slots]

/-! ### A cycle that finds every slot settled (R91, R180) -/

theorem run_machineInv {n : Nat} {s t : State} (inv : MachineInv s) (run : Sys2Proof.core.run n s = .next t) :
    MachineInv t := by
  induction n generalizing s with
  | zero => exact Host.Outcome.next.inj run ▸ inv
  | succ n ih =>
    obtain ⟨u, one⟩ := step_eq_next s
    rw [run_step n one] at run
    exact ih (stepWrites_machineInv inv (step_writes one)) run

/-- Memories that agree on every bit agree on every byte. -/
theorem read_eq_of_bit_eq {m n : Memory} (bits : ∀ i, m.bit i = n.bit i) (a : Nat) : m.read a = n.read a := by
  refine BitVec.eq_of_getLsbD_eq fun b lt => ?_
  have bit := bits (8 * a + b)
  rwa [Memory.bit, Memory.bit, show (8 * a + b) / 8 = a by omega, show (8 * a + b) % 8 = b by omega] at bit

/-- Being settled reads no saved sample, and the sample only. -/
theorem settled_congr {m : Instr} {r q : Slot} (pin : q.pinState = r.pinState) (prev : q.prevState = r.prevState)
    (output : q.currentState = r.currentState) (pending : q.pending = r.pending) : Settled m q ↔ Settled m r := by
  have edge : Qualifies m q ↔ Qualifies m r := by
    unfold Qualifies
    rw [pin, prev]
  rw [Settled, Settled, edge, output, pending]

/-- A settled record that already holds the sample of its slot is settled when it latches it again. -/
theorem settled_latched_again {c : State} {m : Instr} {i : Nat} {r q : Slot}
    (held : q.pinState = (latched c i r).pinState) (settled : Settled m q) : Settled m (latched c i q) := by
  rw [latched_eq] at held ⊢
  cases sample : latchedSample c i with
  | none => exact settled
  | some level =>
    rw [sample] at held
    exact (settled_congr (q := takeLevel level q) held.symm rfl rfl rfl).mpr settled

theorem latched_output (c : State) (i : Nat) (r : Slot) :
    (latched c i r).currentState = r.currentState ∧ (latched c i r).pressCount = r.pressCount := by
  rw [latched_eq]
  cases latchedSample c i <;> exact ⟨rfl, rfl⟩

section Settled

variable {c : State} (settled : ∀ (i : Nat) r m, i < assignedCount c → c.slots[i]? = some r → c.modeAt i = some m →
  Settled m (latched c i r))

include settled

/-- No settled slot commits, so the masks stay. -/
theorem masksAfter_of_settled : masksAfter c = c.povMask := by
  refine List.foldlRecOn (motive := (· = c.povMask)) _ _ rfl ?_
  rintro t rfl i assigned
  unfold maskAfterSlot
  cases slot : c.slots[i]? with
  | none => rfl
  | some r =>
    cases mode : c.modeAt i with
    | none => exact maskCommitWith_unloaded mode _ _
    | some m =>
      have notCommits := not_commits_of_settled (settled i r m (List.mem_range.mp assigned) slot mode) c.cfg c.inp.nowMs
      exact (maskCommitWith_loaded mode _ _).trans (masksAfterMode_of_not_commits notCommits _)

/-- A settled slot keeps its outputs, and is settled after the cycle, also on the same sample again. -/
theorem slotAfter_of_settled {i : Nat} {r : Slot} (here : c.slots[i]? = some r) :
    (slotAfter c i r).currentState = r.currentState ∧ (slotAfter c i r).pressCount = r.pressCount ∧
    ∀ m, i < assignedCount c → c.modeAt i = some m →
      Settled m (slotAfter c i r) ∧ Settled m (latched c i (slotAfter c i r)) := by
  rw [slotAfter_eq]
  split
  · next lt =>
    cases mode : c.modeAt i with
    | none =>
      rw [advancedSlot_unloaded mode]
      exact ⟨(latched_output c i r).1, (latched_output c i r).2, by nofun⟩
    | some m =>
      rw [advancedSlot_loaded mode]
      have advances := chainOf_advances (o := c.params.overflow) (c := c.cfg) (now := c.inp.nowMs)
        (r := latched c i r) (modeAt_format mode)
      obtain ⟨stays, output, count⟩ := advances.staysSettled (settled i r m lt here mode)
      refine ⟨output.trans (latched_output c i r).1, count.trans (latched_output c i r).2, fun n _ same => ?_⟩
      cases same
      exact ⟨stays, settled_latched_again advances.samples.1 stays⟩
  · next ge => exact ⟨rfl, rfl, fun _ lt => absurd lt ge⟩

end Settled

/-- A bitmap that shows outputs that did not change is the bitmap before. -/
theorem outBitmap_eq_of_shows {s t : State} {n : Nat} (invS : MachineInv s) (invT : MachineInv t)
    (params : t.params = s.params) (showsS : BitmapShows s n) (showsT : BitmapShows t n)
    (same : ∀ (i : Nat) r, s.slots[i]? = some r → ∃ r', t.slots[i]? = some r' ∧ r'.currentState = r.currentState) :
    t.outBitmap = s.outBitmap := by
  refine Memory.ext invT.bitmapOk.canonical invS.bitmapOk.canonical (read_eq_of_bit_eq fun i => ?_)
  cases slot : s.slots[i]? with
  | some r =>
    obtain ⟨r', after, output⟩ := same i r slot
    rw [showsT i r' after, showsS i r slot, output]
  | none =>
    have pad : s.params.N ≤ i := by
      rw [← invS.slotsLength]
      exact List.getElem?_eq_none_iff.mp slot
    rw [invT.bitmapOk.padZero i (by rw [params]; exact pad), invS.bitmapOk.padZero i pad]

/-- Settles O55: by the closed form of the cycle, with no commit in it. -/
theorem settledCycleIsIdempotent : Obligations.SettledCycleIsIdempotent := by
  intro s x later c inv rest schedule cycle settledS
  obtain ⟨t, run, done⟩ := run_cycle inv rest schedule cycle
  have slots : c.slots = s.slots := by rw [cycle]
  have cfg : c.cfg = s.cfg := by rw [cycle]
  have modes : c.modeAt = s.modeAt := by rw [cycle]; rfl
  have params : t.params = s.params := by rw [done.frame, cycle]
  have settled : ∀ (i : Nat) r m, i < assignedCount c → c.slots[i]? = some r → c.modeAt i = some m →
      Settled m (latched c i r) := by rw [slots, modes]; exact settledS
  have masks : t.povMask = s.povMask := by rw [done.masks, masksAfter_of_settled settled, cycle]
  have codes : t.povCode = s.povCode := Hats.ext_get fun h => by
    rw [done.codes, masks, inv.codesFollow (by rw [rest]; nofun)]
  have same : ∀ (i : Nat) r, s.slots[i]? = some r → ∃ r', t.slots[i]? = some r' ∧ r'.currentState = r.currentState ∧
      r'.pressCount = r.pressCount ∧
      (∀ m, i < assignedCount c → s.modeAt i = some m → Settled m r' ∧ Settled m (latched c i r')) := by
    rw [← slots, ← modes]
    exact fun i r here => ⟨_, done.slot here, slotAfter_of_settled settled here⟩
  refine ⟨t, run, masks, codes, same, done.bitmapShows, fun shows => ?_⟩
  have bitmap : t.outBitmap = s.outBitmap :=
    outBitmap_eq_of_shows inv (run_machineInv inv run) params shows done.bitmapShows fun i r here =>
      let ⟨r', after, output, _⟩ := same i r here
      ⟨r', after, output⟩
  obtain ⟨shownBitmap, shownCode⟩ := inv.shownAtRest rest
  refine ⟨bitmap, ?_⟩
  have shownAfter : t.shownBitmap = s.shownBitmap ∧ t.shownCode = s.shownCode := by
    rw [shownBitmap, shownCode, ← bitmap, ← codes, done.frame]
    exact ⟨rfl, rfl⟩
  unfold State.readOutputs
  rw [params, shownAfter.1, shownAfter.2]

end Sys2Proof.Proofs
